-- ==== Sys2Proof/Word.lean ====
section
/-! DEFINITION. The word types of the core: bytes, 16-bit words, register numbers and 12-bit addresses (00_scope.md R6, R9; 30_encoding.md R71). -/

namespace Sys2Proof

/-- A general register, a timer, a byte of memory (00_scope.md R6). -/
abbrev Byte := BitVec 8

/-- An instruction word, `PC`, `I`, an entry of `STACK` (00_scope.md R6). -/
abbrev Word := BitVec 16

/-- The field `x`, `y` or `n` of an instruction word; a register number; a key code (30_encoding.md R71). -/
abbrev Nibble := BitVec 4

/-- The field `nnn` of an instruction word (30_encoding.md R71). -/
abbrev Addr := BitVec 12

/-- The six quirk bits (10_state.md R35). -/
abbrev Quirks := BitVec 6

/-- A register number names one of 16 registers. -/
theorem Nibble.lt_sixteen (r : Nibble) : r.toNat < 16 := r.isLt

/-- The number of register 15, the flag register `VF` (10_state.md R21). -/
abbrev vf : Nibble := 15#4

end Sys2Proof
end

