-- ==== Sys2Proof/Syntax.lean ====
section
/-! DEFINITION. The instructions: one constructor for each of the 39 rows of spec/opcode_table.json, in its order (30_encoding.md R75, R76). A field's type has exactly the encoding's width (30_encoding.md R71, R74). -/

namespace Sys2Proof

/-- An instruction of the core. The operands `x`, `y` name general registers, `nnn` is an address,
`kk` an immediate byte, `n` a count. -/
inductive Instr where
  /-- `00E0`, R161. -/
  | cls
  /-- `00EE`, R112. -/
  | ret
  /-- `00FB`, R166. -/
  | scr
  /-- `00FC`, R167. -/
  | scl
  /-- `00FE`, R162. -/
  | low
  /-- `00FF`, R163. -/
  | high
  /-- `00Cn`, R165. -/
  | scd (n : Nibble)
  /-- `Ex9E`, R180. -/
  | skp (x : Nibble)
  /-- `ExA1`, R181. -/
  | sknp (x : Nibble)
  /-- `Fx07`, R183. -/
  | ldVxDt (x : Nibble)
  /-- `Fx0A`, R182. -/
  | ldVxK (x : Nibble)
  /-- `Fx15`, R184. -/
  | ldDtVx (x : Nibble)
  /-- `Fx18`, R185. -/
  | ldStVx (x : Nibble)
  /-- `Fx1E`, R191. -/
  | addIVx (x : Nibble)
  /-- `Fx29`, R192. -/
  | ldFVx (x : Nibble)
  /-- `Fx33`, R193. -/
  | ldBVx (x : Nibble)
  /-- `Fx55`, the block store, R194. -/
  | ldMemVx (x : Nibble)
  /-- `Fx65`, the block load, R195. -/
  | ldVxMem (x : Nibble)
  /-- `5xy0`, R116. -/
  | seVxVy (x y : Nibble)
  /-- `8xy0`, R130. -/
  | ldVxVy (x y : Nibble)
  /-- `8xy1`, R131. -/
  | orVxVy (x y : Nibble)
  /-- `8xy2`, R132. -/
  | andVxVy (x y : Nibble)
  /-- `8xy3`, R133. -/
  | xorVxVy (x y : Nibble)
  /-- `8xy4`, R134. -/
  | addVxVy (x y : Nibble)
  /-- `8xy5`, R135. -/
  | subVxVy (x y : Nibble)
  /-- `8xy6`, R137. -/
  | shrVxVy (x y : Nibble)
  /-- `8xy7`, R138. -/
  | subnVxVy (x y : Nibble)
  /-- `8xyE`, R139. -/
  | shlVxVy (x y : Nibble)
  /-- `9xy0`, R117. -/
  | sneVxVy (x y : Nibble)
  /-- `1nnn`, R110. -/
  | jp (nnn : Addr)
  /-- `2nnn`, R111. -/
  | call (nnn : Addr)
  /-- `3xkk`, R114. -/
  | seVxKk (x : Nibble) (kk : Byte)
  /-- `4xkk`, R115. -/
  | sneVxKk (x : Nibble) (kk : Byte)
  /-- `6xkk`, R150. -/
  | ldVxKk (x : Nibble) (kk : Byte)
  /-- `7xkk`, R151. -/
  | addVxKk (x : Nibble) (kk : Byte)
  /-- `Annn`, R190. -/
  | ldI (nnn : Addr)
  /-- `Bnnn`, R113. -/
  | jpV0 (nnn : Addr)
  /-- `Cxkk`, R152. -/
  | rnd (x : Nibble) (kk : Byte)
  /-- `Dxyn`, R160. -/
  | drw (x y n : Nibble)
  deriving DecidableEq, Repr

end Sys2Proof
end

