-- ==== Sys2Proof/WellFormed.lean ====
section
/-! DEFINITION. Which operands an instruction may have. A term of Instr cannot hold an operand out of range, since each field has its encoding's width; the checks are therefore made where an instruction is still a row number and a list of plain numbers, as the assembler contract words them (30_encoding.md R81, R84). -/

namespace Sys2Proof

/-- Why a row and its numbers make no instruction: the cases of *AssemblyFailure* (30_encoding.md R84). -/
inductive IllFormed where
  /-- No row of the opcode table has this number ("unknown mnemonic"). -/
  | unknownRow
  /-- The row takes another number of operands ("wrong operand count"). -/
  | operandCount
  /-- A register number above 15. -/
  | register (v : Nat)
  /-- "address > 0x0FFF". -/
  | address (v : Nat)
  /-- "byte > 0xFF". -/
  | byte (v : Nat)
  /-- "nibble > 0xF". -/
  | nibble (v : Nat)
  deriving DecidableEq, Repr

/-- A register operand, `v0` to `vf` (R81). -/
def checkRegister (v : Nat) : Except IllFormed Nibble :=
  if v < 16 then .ok (BitVec.ofNat 4 v) else .error (.register v)

/-- An address operand (R84). -/
def checkAddress (v : Nat) : Except IllFormed Addr :=
  if v < 4096 then .ok (BitVec.ofNat 12 v) else .error (.address v)

/-- A byte operand (R84). -/
def checkByte (v : Nat) : Except IllFormed Byte :=
  if v < 256 then .ok (BitVec.ofNat 8 v) else .error (.byte v)

/-- A nibble operand (R84). -/
def checkNibble (v : Nat) : Except IllFormed Nibble :=
  if v < 16 then .ok (BitVec.ofNat 4 v) else .error (.nibble v)

/-- An instruction before its operands are checked: its row of spec/opcode_table.json, counted from 0,
and its operands as numbers in the order of its assembler form. -/
structure Source where
  row : Nat
  operands : List Nat
  deriving DecidableEq, Repr

/-- Checks a row that takes no operand. -/
def Source.bare (i : Instr) : List Nat → Except IllFormed Instr
  | [] => .ok i
  | _ => .error .operandCount

/-- Checks a row that takes one register. -/
def Source.oneReg (f : Nibble → Instr) : List Nat → Except IllFormed Instr
  | [x] => (checkRegister x).map f
  | _ => .error .operandCount

/-- Checks a row that takes two registers. -/
def Source.twoRegs (f : Nibble → Nibble → Instr) : List Nat → Except IllFormed Instr
  | [x, y] => (checkRegister x).bind fun x => (checkRegister y).map (f x)
  | _ => .error .operandCount

/-- Checks a row that takes an address. -/
def Source.oneAddress (f : Addr → Instr) : List Nat → Except IllFormed Instr
  | [nnn] => (checkAddress nnn).map f
  | _ => .error .operandCount

/-- Checks a row that takes a register and a byte. -/
def Source.regByte (f : Nibble → Byte → Instr) : List Nat → Except IllFormed Instr
  | [x, kk] => (checkRegister x).bind fun x => (checkByte kk).map (f x)
  | _ => .error .operandCount

/-- Checks `SCD n`, whose one operand is a nibble. -/
def Source.count : List Nat → Except IllFormed Instr
  | [n] => (checkNibble n).map .scd
  | _ => .error .operandCount

/-- Checks `DRW Vx Vy n`. -/
def Source.sprite : List Nat → Except IllFormed Instr
  | [x, y, n] => (checkRegister x).bind fun x => (checkRegister y).bind fun y =>
      (checkNibble n).map (.drw x y)
  | _ => .error .operandCount

/-- The instruction a row and its numbers make, or why they make none (R84). -/
def Source.check (s : Source) : Except IllFormed Instr :=
  match s.row with
  | 0 => Source.bare .cls s.operands
  | 1 => Source.bare .ret s.operands
  | 2 => Source.bare .scr s.operands
  | 3 => Source.bare .scl s.operands
  | 4 => Source.bare .low s.operands
  | 5 => Source.bare .high s.operands
  | 6 => Source.count s.operands
  | 7 => Source.oneReg .skp s.operands
  | 8 => Source.oneReg .sknp s.operands
  | 9 => Source.oneReg .ldVxDt s.operands
  | 10 => Source.oneReg .ldVxK s.operands
  | 11 => Source.oneReg .ldDtVx s.operands
  | 12 => Source.oneReg .ldStVx s.operands
  | 13 => Source.oneReg .addIVx s.operands
  | 14 => Source.oneReg .ldFVx s.operands
  | 15 => Source.oneReg .ldBVx s.operands
  | 16 => Source.oneReg .ldMemVx s.operands
  | 17 => Source.oneReg .ldVxMem s.operands
  | 18 => Source.twoRegs .seVxVy s.operands
  | 19 => Source.twoRegs .ldVxVy s.operands
  | 20 => Source.twoRegs .orVxVy s.operands
  | 21 => Source.twoRegs .andVxVy s.operands
  | 22 => Source.twoRegs .xorVxVy s.operands
  | 23 => Source.twoRegs .addVxVy s.operands
  | 24 => Source.twoRegs .subVxVy s.operands
  | 25 => Source.twoRegs .shrVxVy s.operands
  | 26 => Source.twoRegs .subnVxVy s.operands
  | 27 => Source.twoRegs .shlVxVy s.operands
  | 28 => Source.twoRegs .sneVxVy s.operands
  | 29 => Source.oneAddress .jp s.operands
  | 30 => Source.oneAddress .call s.operands
  | 31 => Source.regByte .seVxKk s.operands
  | 32 => Source.regByte .sneVxKk s.operands
  | 33 => Source.regByte .ldVxKk s.operands
  | 34 => Source.regByte .addVxKk s.operands
  | 35 => Source.oneAddress .ldI s.operands
  | 36 => Source.oneAddress .jpV0 s.operands
  | 37 => Source.regByte .rnd s.operands
  | 38 => Source.sprite s.operands
  | _ => .error .unknownRow

/-- A row and its numbers are well formed when they make an instruction. -/
def Source.wellFormed (s : Source) : Bool := s.check.isOk

end Sys2Proof
end

