-- ==== Sys2Proof/Decode.lean ====
section
/-! DEFINITION. The decoder, total on every word, which rejects an undecodable word by the name of its row in 30_encoding.md R78; the encoder, written from the patterns of 30_encoding.md R75; and the opcode table of (pattern, mask) pairs in its declared order (30_encoding.md R76). -/

namespace Sys2Proof

/-- Why bytes decode to no instruction (30_encoding.md R77, R78). -/
inductive DecodeError where
  /-- `0nnn` outside the 22 words of the `N` and `E` formats. -/
  | unknown0
  /-- `5xyn` with `n` not 0. -/
  | unknown5
  /-- `8xyn` with `n` in 8 to D or F. -/
  | unknown8
  /-- `9xyn` with `n` not 0. -/
  | unknown9
  /-- `Exkk` with `kk` neither 9E nor A1. -/
  | unknownE
  /-- `Fxkk` with `kk` none of the nine. -/
  | unknownF
  /-- Fewer than two bytes were given; the core's fetch always gives two. -/
  | truncated
  deriving DecidableEq, Repr

/-- The leading nibble, bits 15:12 (R71). -/
def Word.op (w : Word) : Nibble := w.extractLsb' 12 4

/-- The field `x`, bits 11:8 (R71). -/
def Word.x (w : Word) : Nibble := w.extractLsb' 8 4

/-- The field `y`, bits 7:4 (R71). -/
def Word.y (w : Word) : Nibble := w.extractLsb' 4 4

/-- The field `n`, bits 3:0 (R71). -/
def Word.n (w : Word) : Nibble := w.extractLsb' 0 4

/-- The field `kk`, bits 7:0 (R71). -/
def Word.kk (w : Word) : Byte := w.extractLsb' 0 8

/-- The field `nnn`, bits 11:0 (R71). -/
def Word.nnn (w : Word) : Addr := w.extractLsb' 0 12

/-- The words with leading nibble 0: formats `E` and `N` (R72, R73, R75). -/
def decode0 (x : Nibble) (y : Nibble) (n : Nibble) : Except DecodeError Instr :=
  match x.toNat, y.toNat, n.toNat with
  | 0, 0xC, _ => .ok (.scd n)
  | 0, 0xE, 0x0 => .ok .cls
  | 0, 0xE, 0xE => .ok .ret
  | 0, 0xF, 0xB => .ok .scr
  | 0, 0xF, 0xC => .ok .scl
  | 0, 0xF, 0xE => .ok .low
  | 0, 0xF, 0xF => .ok .high
  | _, _, _ => .error .unknown0

/-- The 8-series family, told apart by the low nibble (R75). -/
def decode8 (x y n : Nibble) : Except DecodeError Instr :=
  match n.toNat with
  | 0x0 => .ok (.ldVxVy x y)
  | 0x1 => .ok (.orVxVy x y)
  | 0x2 => .ok (.andVxVy x y)
  | 0x3 => .ok (.xorVxVy x y)
  | 0x4 => .ok (.addVxVy x y)
  | 0x5 => .ok (.subVxVy x y)
  | 0x6 => .ok (.shrVxVy x y)
  | 0x7 => .ok (.subnVxVy x y)
  | 0xE => .ok (.shlVxVy x y)
  | _ => .error .unknown8

/-- The words with leading nibble E: format `X` (R75). -/
def decodeE (x : Nibble) (kk : Byte) : Except DecodeError Instr :=
  match kk.toNat with
  | 0x9E => .ok (.skp x)
  | 0xA1 => .ok (.sknp x)
  | _ => .error .unknownE

/-- The words with leading nibble F: format `X` (R75). -/
def decodeF (x : Nibble) (kk : Byte) : Except DecodeError Instr :=
  match kk.toNat with
  | 0x07 => .ok (.ldVxDt x)
  | 0x0A => .ok (.ldVxK x)
  | 0x15 => .ok (.ldDtVx x)
  | 0x18 => .ok (.ldStVx x)
  | 0x1E => .ok (.addIVx x)
  | 0x29 => .ok (.ldFVx x)
  | 0x33 => .ok (.ldBVx x)
  | 0x55 => .ok (.ldMemVx x)
  | 0x65 => .ok (.ldVxMem x)
  | _ => .error .unknownF

/-- Decoding a word: a case split on the leading nibble and the sub-field, which 40_fetch_dispatch.md
R94 allows in place of the scan of `opcodeTable`. The strict low nibble of `5xy0` and `9xy0` and the
undecodable `0nnn` words are the spec's decision D19 (log 21). -/
def decode (w : Word) : Except DecodeError Instr :=
  match w.op.toNat with
  | 0x0 => decode0 w.x w.y w.n
  | 0x1 => .ok (.jp w.nnn)
  | 0x2 => .ok (.call w.nnn)
  | 0x3 => .ok (.seVxKk w.x w.kk)
  | 0x4 => .ok (.sneVxKk w.x w.kk)
  | 0x5 => if w.n = 0#4 then .ok (.seVxVy w.x w.y) else .error .unknown5
  | 0x6 => .ok (.ldVxKk w.x w.kk)
  | 0x7 => .ok (.addVxKk w.x w.kk)
  | 0x8 => decode8 w.x w.y w.n
  | 0x9 => if w.n = 0#4 then .ok (.sneVxVy w.x w.y) else .error .unknown9
  | 0xA => .ok (.ldI w.nnn)
  | 0xB => .ok (.jpV0 w.nnn)
  | 0xC => .ok (.rnd w.x w.kk)
  | 0xD => .ok (.drw w.x w.y w.n)
  | 0xE => decodeE w.x w.kk
  | _ => decodeF w.x w.kk

/-- Decoding bytes: two of them make a word, the first in bits 15:8 (30_encoding.md R70, 20_memory.md
R52); the rest is handed back. -/
def decodeBytes : List Byte → Except DecodeError (Instr × List Byte)
  | hi :: lo :: rest => (decode (hi ++ lo)).map fun i => (i, rest)
  | _ => .error .truncated

/-- The word of an instruction: the pattern of its row in 30_encoding.md R75. -/
def encode : Instr → Word
  | .cls => 0x00E0#16
  | .ret => 0x00EE#16
  | .scr => 0x00FB#16
  | .scl => 0x00FC#16
  | .low => 0x00FE#16
  | .high => 0x00FF#16
  | .scd n => 0x0#4 ++ 0x0#4 ++ 0xC#4 ++ n
  | .skp x => 0xE#4 ++ x ++ 0x9E#8
  | .sknp x => 0xE#4 ++ x ++ 0xA1#8
  | .ldVxDt x => 0xF#4 ++ x ++ 0x07#8
  | .ldVxK x => 0xF#4 ++ x ++ 0x0A#8
  | .ldDtVx x => 0xF#4 ++ x ++ 0x15#8
  | .ldStVx x => 0xF#4 ++ x ++ 0x18#8
  | .addIVx x => 0xF#4 ++ x ++ 0x1E#8
  | .ldFVx x => 0xF#4 ++ x ++ 0x29#8
  | .ldBVx x => 0xF#4 ++ x ++ 0x33#8
  | .ldMemVx x => 0xF#4 ++ x ++ 0x55#8
  | .ldVxMem x => 0xF#4 ++ x ++ 0x65#8
  | .seVxVy x y => 0x5#4 ++ x ++ y ++ 0x0#4
  | .ldVxVy x y => 0x8#4 ++ x ++ y ++ 0x0#4
  | .orVxVy x y => 0x8#4 ++ x ++ y ++ 0x1#4
  | .andVxVy x y => 0x8#4 ++ x ++ y ++ 0x2#4
  | .xorVxVy x y => 0x8#4 ++ x ++ y ++ 0x3#4
  | .addVxVy x y => 0x8#4 ++ x ++ y ++ 0x4#4
  | .subVxVy x y => 0x8#4 ++ x ++ y ++ 0x5#4
  | .shrVxVy x y => 0x8#4 ++ x ++ y ++ 0x6#4
  | .subnVxVy x y => 0x8#4 ++ x ++ y ++ 0x7#4
  | .shlVxVy x y => 0x8#4 ++ x ++ y ++ 0xE#4
  | .sneVxVy x y => 0x9#4 ++ x ++ y ++ 0x0#4
  | .jp nnn => 0x1#4 ++ nnn
  | .call nnn => 0x2#4 ++ nnn
  | .seVxKk x kk => 0x3#4 ++ x ++ kk
  | .sneVxKk x kk => 0x4#4 ++ x ++ kk
  | .ldVxKk x kk => 0x6#4 ++ x ++ kk
  | .addVxKk x kk => 0x7#4 ++ x ++ kk
  | .ldI nnn => 0xA#4 ++ nnn
  | .jpV0 nnn => 0xB#4 ++ nnn
  | .rnd x kk => 0xC#4 ++ x ++ kk
  | .drw x y n => 0xD#4 ++ x ++ y ++ n

/-- The two bytes of an instruction, the high one first (30_encoding.md R70). -/
def encodeBytes (i : Instr) : List Byte :=
  [(encode i).extractLsb' 8 8, (encode i).extractLsb' 0 8]

/-- The exact and nibble-count rows of the opcode table: masks 0xFFFF and 0xFFF0. -/
def opcodeRowsEN : List (Word × Word) :=
  [(0x00E0, 0xFFFF), (0x00EE, 0xFFFF), (0x00FB, 0xFFFF), (0x00FC, 0xFFFF), (0x00FE, 0xFFFF),
   (0x00FF, 0xFFFF), (0x00C0, 0xFFF0)]

/-- The rows of format `X`: mask 0xF0FF. -/
def opcodeRowsX : List (Word × Word) :=
  [(0xE09E, 0xF0FF), (0xE0A1, 0xF0FF), (0xF007, 0xF0FF), (0xF00A, 0xF0FF), (0xF015, 0xF0FF),
   (0xF018, 0xF0FF), (0xF01E, 0xF0FF), (0xF029, 0xF0FF), (0xF033, 0xF0FF), (0xF055, 0xF0FF),
   (0xF065, 0xF0FF)]

/-- The rows of format `XY`: mask 0xF00F. -/
def opcodeRowsXY : List (Word × Word) :=
  [(0x5000, 0xF00F), (0x8000, 0xF00F), (0x8001, 0xF00F), (0x8002, 0xF00F), (0x8003, 0xF00F),
   (0x8004, 0xF00F), (0x8005, 0xF00F), (0x8006, 0xF00F), (0x8007, 0xF00F), (0x800E, 0xF00F),
   (0x9000, 0xF00F)]

/-- The rows of formats `A`, `XK` and `XYN`: mask 0xF000. -/
def opcodeRowsTop : List (Word × Word) :=
  [(0x1000, 0xF000), (0x2000, 0xF000), (0x3000, 0xF000), (0x4000, 0xF000), (0x6000, 0xF000),
   (0x7000, 0xF000), (0xA000, 0xF000), (0xB000, 0xF000), (0xC000, 0xF000), (0xD000, 0xF000)]

/-- The opcode table: (pattern, mask) pairs in the declared order of spec/opcode_table.json
(30_encoding.md R76). -/
def opcodeTable : List (Word × Word) :=
  opcodeRowsEN ++ opcodeRowsX ++ opcodeRowsXY ++ opcodeRowsTop

/-- A word matches a row when `(word & mask) == pattern` (30_encoding.md R76). -/
def rowMatches (w : Word) (row : Word × Word) : Bool := w &&& row.2 == row.1

/-- The number of the first row, in the declared order, that a word matches (30_encoding.md R76). -/
def firstMatch (w : Word) : Option Nat := opcodeTable.findIdx? (rowMatches w)

/-- The number of an instruction's row in the opcode table. -/
def Instr.row : Instr → Nat
  | .cls => 0
  | .ret => 1
  | .scr => 2
  | .scl => 3
  | .low => 4
  | .high => 5
  | .scd _ => 6
  | .skp _ => 7
  | .sknp _ => 8
  | .ldVxDt _ => 9
  | .ldVxK _ => 10
  | .ldDtVx _ => 11
  | .ldStVx _ => 12
  | .addIVx _ => 13
  | .ldFVx _ => 14
  | .ldBVx _ => 15
  | .ldMemVx _ => 16
  | .ldVxMem _ => 17
  | .seVxVy _ _ => 18
  | .ldVxVy _ _ => 19
  | .orVxVy _ _ => 20
  | .andVxVy _ _ => 21
  | .xorVxVy _ _ => 22
  | .addVxVy _ _ => 23
  | .subVxVy _ _ => 24
  | .shrVxVy _ _ => 25
  | .subnVxVy _ _ => 26
  | .shlVxVy _ _ => 27
  | .sneVxVy _ _ => 28
  | .jp _ => 29
  | .call _ => 30
  | .seVxKk _ _ => 31
  | .sneVxKk _ _ => 32
  | .ldVxKk _ _ => 33
  | .addVxKk _ _ => 34
  | .ldI _ => 35
  | .jpV0 _ => 36
  | .rnd _ _ => 37
  | .drw _ _ _ => 38

/-- The word of a table row's `w`: its low `nbits` bits, every bit above them 0. -/
def tableWord (nbits w : Nat) : Word := BitVec.ofNat 16 (w % 2 ^ nbits)

/-- What the decoder reads from the bytes of the word `w` as the hardware stores them. -/
def decodeTableWord (nbits w : Nat) : Option Instr :=
  match decodeBytes [(tableWord nbits w).extractLsb' 8 8, (tableWord nbits w).extractLsb' 0 8] with
  | .ok (i, _) => some i
  | .error _ => none

end Sys2Proof
end

