-- ==== Sys2Proof/Config.lean ====
section
/-! DEFINITION. What the spec leaves to an implementation: the type of its named parameters (00_scope.md R8) and the free values, constants without a body. The parameters' default values stand in Machine/Params.lean. -/

namespace Sys2Proof

/-- Which of the two writes of an instruction that writes a result and the flag comes first: the
parameter VF_ORDER of 00_scope.md R8. The later write remains when both go to `V[15]` (42_alu.md R140).
DESIGN CHOICE (safe): a parameter, log 1; its default is DEDUCED (unsafe), log 4. -/
inductive WriteOrder where
  | flagThenResult
  | resultThenFlag
  deriving DecidableEq, Repr

/-- The parameters the spec leaves open and a model takes as arguments (00_scope.md R8; notes of
92_eei_decisions.md). DESIGN CHOICE (safe): a field of State that no step changes, log 1. -/
structure Params where
  /-- `FONT[0..79]`, which `load` places at 0x000 (70_reset_and_hazards.md R242, D3). -/
  font : Vector Byte 80
  /-- `SCROLL_H_DIST`, the distance `SCR` and `SCL` ask for (44_draw_display.md R164, D14). -/
  scrollHDist : Nat
  /-- `VF_ORDER` of `ADD` 8xy4 (42_alu.md R140, D8). -/
  vfAdd : WriteOrder
  /-- `VF_ORDER` of `SUB` 8xy5 and `SUBN` 8xy7. -/
  vfSub : WriteOrder
  /-- `VF_ORDER` of `SHR` 8xy6 and `SHL` 8xyE. -/
  vfShift : WriteOrder
  /-- `VF_ORDER` of `OR`, `AND`, `XOR` when they write the flag. -/
  vfLogic : WriteOrder
  /-- `MODE_SWITCH_CLEARS`: whether `LOW` and `HIGH` also clear the display (44_draw_display.md R162, D15). -/
  modeSwitchClears : Bool
  deriving DecidableEq, Repr

/-- FREE VALUE. The `rnd` stream: the byte the n-th executed `RND` draws, supplied from outside under
no law (43_immediate_random.md R152, D10, U3; log 8). -/
opaque Config.rnd : Nat → Byte

/-- FREE VALUE. The number an element of the state holds after a rejected `load`: the first argument
counts the rejected loads, the second numbers the element (70_reset_and_hazards.md R241, D5, U2; log 11). -/
opaque Config.unspecified : Nat → Nat → Nat

end Sys2Proof
end

