-- ==== Sys2Proof/Machine/FrameBuffer.lean ====
section
/-! DEFINITION. The display storage: one array of 128 by 64 pixels, column first (10_state.md R38). -/

namespace Sys2Proof.Machine

/-- `FB[x][y]`: 128 columns of 64 pixels (10_state.md R38; log 17). -/
abbrev FrameBuffer := Vector (Vector Bool 64) 128

/-- All pixels clear. -/
def FrameBuffer.clear : FrameBuffer := Vector.replicate 128 (Vector.replicate 64 false)

/-- The pixel in column `px` and row `py`; false outside the storage. -/
def FrameBuffer.pixel (fb : FrameBuffer) (px py : Nat) : Bool :=
  if h : px < 128 ∧ py < 64 then fb[px][py] else false

/-- The storage with one pixel written; unchanged outside the storage. -/
def FrameBuffer.setPixel (fb : FrameBuffer) (px py : Nat) (b : Bool) : FrameBuffer :=
  if h : px < 128 ∧ py < 64 then fb.set px (fb[px].set py b) else fb

/-- The storage with every pixel given. -/
def FrameBuffer.tabulate (f : Nat → Nat → Bool) : FrameBuffer :=
  Vector.ofFn fun x : Fin 128 => Vector.ofFn fun y : Fin 64 => f x.val y.val

end Sys2Proof.Machine
end

