-- ==== Sys2Proof/Machine/Memory.lean ====
section
/-! DEFINITION. The memory of 4096 bytes as a list of (address, byte) pairs in one canonical form (20_memory.md R50, R51, R57). -/

namespace Sys2Proof.Machine

/-- Glyphs 0 to 7 of the spec's default font (70_reset_and_hazards.md R242). -/
def fontLow : List Byte :=
  [0xF0, 0x90, 0x90, 0x90, 0xF0] ++ [0x20, 0x60, 0x20, 0x20, 0x70] ++
  [0xF0, 0x10, 0xF0, 0x80, 0xF0] ++ [0xF0, 0x10, 0xF0, 0x10, 0xF0] ++
  [0x90, 0x90, 0xF0, 0x10, 0x10] ++ [0xF0, 0x80, 0xF0, 0x10, 0xF0] ++
  [0xF0, 0x80, 0xF0, 0x90, 0xF0] ++ [0xF0, 0x10, 0x20, 0x40, 0x40]

/-- Glyphs 8 to F of the spec's default font (70_reset_and_hazards.md R242). -/
def fontHigh : List Byte :=
  [0xF0, 0x90, 0xF0, 0x90, 0xF0] ++ [0xF0, 0x90, 0xF0, 0x10, 0xF0] ++
  [0xF0, 0x90, 0xF0, 0x90, 0x90] ++ [0xE0, 0x90, 0xE0, 0x90, 0xE0] ++
  [0xF0, 0x80, 0x80, 0x80, 0xF0] ++ [0xE0, 0x90, 0x90, 0x90, 0xE0] ++
  [0xF0, 0x80, 0xF0, 0x80, 0xF0] ++ [0xF0, 0x80, 0xF0, 0x80, 0x80]

/-- The 80 bytes of the spec's default font, glyph `d` at `5 * d`. PRESUMED (unsafe for claims about
glyph shapes): the spec takes them from general knowledge, G3, D3; log 2. -/
def defaultFont : List Byte := fontLow ++ fontHigh

/-- What an address reads as when memory does not list it: its byte after a `load` of no program with
the default font (20_memory.md R57; log 30). -/
def resetByte (a : Nat) : Byte := defaultFont.getD a 0

/-- Memory: (address, byte) pairs, addresses rising and below 4096, no entry equal to what its address
reads as unlisted. -/
abbrev Memory := List Host.Cell

/-- The canonical form from a lowest address on. -/
def Memory.wfFrom (lo : Nat) : Memory → Bool
  | [] => true
  | (a, b) :: m => decide (lo ≤ a) && decide (a < 4096) && decide (b ≠ resetByte a) &&
      Memory.wfFrom (a + 1) m

/-- The canonical form. -/
def Memory.wf (m : Memory) : Bool := Memory.wfFrom 0 m

/-- The listed byte of an address. -/
def Memory.lookup : Memory → Nat → Option Byte
  | [], _ => none
  | (k, v) :: m, a => if k = a then some v else Memory.lookup m a

/-- `MemRead(addr, 1)`: the byte at `addr mod 4096` (00_scope.md R10, 20_memory.md R51). -/
def Memory.read (m : Memory) (addr : Nat) : Byte :=
  (Memory.lookup m (addr % 4096)).getD (resetByte (addr % 4096))

/-- An entry in front of a memory, left out when it is what the address reads as anyway. -/
def Memory.cons (a : Nat) (b : Byte) (m : Memory) : Memory :=
  if b = resetByte a then m else (a, b) :: m

/-- The memory with the byte of address `a` (below 4096) replaced. -/
def Memory.put : Memory → Nat → Byte → Memory
  | [], a, b => Memory.cons a b []
  | (k, v) :: m, a, b =>
    if a < k then Memory.cons a b ((k, v) :: m)
    else if a = k then Memory.cons a b m
    else (k, v) :: Memory.put m a b

/-- `MemWrite(addr, 1, b)`: writes the byte at `addr mod 4096` (00_scope.md R10, 20_memory.md R51). -/
def Memory.write (m : Memory) (addr : Nat) (b : Byte) : Memory :=
  Memory.put m (addr % 4096) b

/-- Bytes written one by one at ascending addresses, each masked by itself (20_memory.md R51, R52). -/
def Memory.writeBytes : Memory → Nat → List Byte → Memory
  | m, _, [] => m
  | m, addr, b :: bs => Memory.writeBytes (Memory.write m addr b) (addr + 1) bs

/-- `MemRead(addr, 2)`: big-endian, the byte at the lower address in bits 15:8 (20_memory.md R52). -/
def Memory.readWord (m : Memory) (addr : Nat) : Word :=
  Memory.read m addr ++ Memory.read m (addr + 1)

/-- The memory after `load`: the font at 0x000, the program at 0x200, 0 elsewhere
(70_reset_and_hazards.md R240). The font parameter is written over the unlisted default. -/
def Memory.image (font : List Byte) (program : List Byte) : Memory :=
  Memory.writeBytes (Memory.writeBytes [] 0 font) 0x200 program

/-- A memory with a given byte at each address, built in canonical form. -/
def Memory.tabulate (f : Nat → Byte) : Memory :=
  (List.range 4096).filterMap fun a => if f a = resetByte a then none else some (a, f a)

end Sys2Proof.Machine
end

