-- ==== Sys2Proof/Machine/Params.lean ====
section
/-! DEFINITION. The default values of the spec's open parameters (00_scope.md R8). -/

namespace Sys2Proof.Machine

/-- The defaults 00_scope.md R8 decides: the customary font (PRESUMED, log 2), distance 4 (PRESUMED,
log 3), the write order of the document's prose (DEDUCED, log 4; 42_alu.md R140), mode switches that
keep the pixels (DEDUCED, log 5). -/
def defaultParams : Params where
  font := ⟨defaultFont.toArray, rfl⟩
  scrollHDist := 4
  vfAdd := .flagThenResult
  vfSub := .flagThenResult
  vfShift := .flagThenResult
  vfLogic := .resultThenFlag
  modeSwitchClears := false

end Sys2Proof.Machine
end

