-- ==== Sys2Proof/Machine/State.lean ====
section
/-! DEFINITION. The state of the core (10_state.md), the host operations still to come, why a step can stop, and the state after reset. -/

namespace Sys2Proof.Machine

/-- The result of `stepInstruction` (60_exceptions.md R220). -/
inductive StepResult where
  | ok
  | decodeFailure
  | stackOverflow
  | stackUnderflow
  deriving DecidableEq, Repr

/-- The result of `load` (70_reset_and_hazards.md R240, R241). -/
inductive LoadResult where
  | loadOk
  | loadFail
  deriving DecidableEq, Repr

/-- The execution states (10_state.md R36); not stored, see `State.execState`. -/
inductive ExecState where
  | running
  | awaitingKey
  | awaitingFrame
  deriving DecidableEq, Repr

/-- The operations the host issues one at a time (00_scope.md R2, R11). The argument types have the
widths of the interface, so a key code above 15 or a seventh quirk bit cannot be given (log 38). -/
inductive HostOp where
  | load (program : List Byte) (quirks : Quirks)
  | stepInstruction
  | stepFrame
  | setKey (code : Nibble) (pressed : Bool)
  | setQuirks (quirks : Quirks)
  deriving DecidableEq, Repr

/-- Why a step can stop with a fault. There is no constructor: no access, alignment, arithmetic or
privilege fault exists, and the three reported failures have a next state and do not stop the core
(60_exceptions.md R220, R225; log 10). Nobody raises one. -/
inductive Fault where
  deriving DecidableEq, Repr

/-- Why a step can be refused. -/
inductive Refusal where
  /-- Raised by `exec` for an instruction that has no meaning yet; none is left. Safe. -/
  | notModelled (mnemonic : String)
  /-- Raised by `runHostOp` for any operation other than `load` issued after a rejected `load`: "the
  only defined continuation is another `load`" (70_reset_and_hazards.md R241, U2; log 11). Safe. -/
  | afterRejectedLoad
  deriving DecidableEq, Repr

/-- The state of the core (10_state.md, summary table), then the model's own fields. -/
structure State where
  /-- `V[0..15]` (R20). -/
  v : Vector Byte 16
  /-- `I` (R27). -/
  i : Word
  /-- `PC` (R24). -/
  pc : Word
  /-- `STACK[0..15]` (R28). -/
  stack : Vector Word 16
  /-- `SP`, the number of stack entries in use, 0 to 16 (R29; log 26). -/
  sp : Fin 17
  /-- `DT` (R30). -/
  dt : Byte
  /-- `ST` (R31). -/
  st : Byte
  /-- `KEYS[0..15]` (R37). -/
  keys : Vector Bool 16
  /-- `KEYWAIT` (R32). -/
  keyWait : Bool
  /-- `KEYREG` (R32). -/
  keyReg : Nibble
  /-- `FRAMEWAIT` (R33). -/
  frameWait : Bool
  /-- `HIRES` (R34). -/
  hires : Bool
  /-- `FB` (R38). -/
  fb : FrameBuffer
  /-- `Q` (R35). -/
  q : Quirks
  /-- `MEM` (20_memory.md R50). -/
  mem : Memory
  /-- The model's own: what the latest `stepInstruction` returned (log 10). -/
  result : StepResult
  /-- The model's own: what the latest `load` returned (log 11). -/
  loadResult : LoadResult
  /-- The model's own: how many bytes of the `rnd` stream were drawn (log 8). -/
  rndIndex : Nat
  /-- The model's own: how many `load`s were rejected (log 11). -/
  loadFailures : Nat
  /-- The model's own: the host operations still to come, the next one first (log 9). -/
  inputs : List HostOp
  /-- The model's own: the spec's open parameters, which no step changes (log 1). -/
  params : Params
  deriving DecidableEq, Repr

/-- The machine right after reset: a successful `load` (10_state.md R40, 70_reset_and_hazards.md R240,
R243) of no program with all quirk bits 0 (DESIGN CHOICE, log 6), and the model's own fields at their
first values (DESIGN CHOICE, log 8 to 11). -/
def State.reset : State where
  v := Vector.replicate 16 0
  i := 0
  pc := 0x200
  stack := Vector.replicate 16 0
  sp := 0
  dt := 0
  st := 0
  keys := Vector.replicate 16 false
  keyWait := false
  keyReg := 0
  frameWait := false
  hires := false
  fb := FrameBuffer.clear
  q := 0
  mem := []
  result := .ok
  loadResult := .loadOk
  rndIndex := 0
  loadFailures := 0
  inputs := []
  params := defaultParams

end Sys2Proof.Machine
end

