-- ==== Sys2Proof/Machine/Ops.lean ====
section
/-! DEFINITION. The named reads and updates of the state that every meaning is written with: registers, memory, stack, latches, the reported failures (which take the place of an exception entry: 60_exceptions.md R228), and the fetch. -/

namespace Sys2Proof.Machine

/-- What a meaning and a step answer. -/
abbrev Answer := Host.Outcome State Fault Refusal

/-- `V[r]` (10_state.md R20). No register is hardwired. -/
def State.reg (s : State) (r : Nibble) : Byte := s.v[r.toNat]'r.isLt

/-- `V[r] <- b` (10_state.md R20). -/
def State.setReg (s : State) (r : Nibble) (b : Byte) : State := { s with v := s.v.set r.toNat b r.isLt }

/-- `I <- w`, all 16 bits kept (10_state.md R27, D7; log 13). -/
def State.setI (s : State) (w : Word) : State := { s with i := w }

/-- `PC <- w`, all 16 bits kept (10_state.md R26, D6; log 13). -/
def State.setPc (s : State) (w : Word) : State := { s with pc := w }

/-- `PC <- (PC + 2) mod 65536` (40_fetch_dispatch.md R92; 41_control_flow.md section 3). -/
def State.advance (s : State) : State := s.setPc (s.pc + 2)

/-- `DT <- b` (10_state.md R30). -/
def State.setDt (s : State) (b : Byte) : State := { s with dt := b }

/-- `ST <- b` (10_state.md R31). -/
def State.setSt (s : State) (b : Byte) : State := { s with st := b }

/-- `MEM[addr mod 4096]` (20_memory.md R51). -/
def State.memByte (s : State) (addr : Nat) : Byte := Memory.read s.mem addr

/-- The bytes stored one by one from `addr` on (20_memory.md R51, R52). -/
def State.storeBytes (s : State) (addr : Nat) (bs : List Byte) : State :=
  { s with mem := Memory.writeBytes s.mem addr bs }

/-- `FB[px][py]` (10_state.md R38). -/
def State.pixel (s : State) (px py : Nat) : Bool := FrameBuffer.pixel s.fb px py

/-- `FB` replaced as a whole. -/
def State.setFb (s : State) (fb : FrameBuffer) : State := { s with fb := fb }

/-- `HIRES <- b` (10_state.md R34). -/
def State.setHires (s : State) (b : Bool) : State := { s with hires := b }

/-- `FRAMEWAIT <- b` (10_state.md R33). -/
def State.setFrameWait (s : State) (b : Bool) : State := { s with frameWait := b }

/-- `KEYWAIT <- 1; KEYREG <- r` (10_state.md R32). -/
def State.awaitKey (s : State) (r : Nibble) : State := { s with keyWait := true, keyReg := r }

/-- `KEYWAIT <- 0`; `KEYREG` keeps its last value (10_state.md R32). -/
def State.endKeyWait (s : State) : State := { s with keyWait := false }

/-- `KEYS[k] <- b` (10_state.md R37). -/
def State.setKeyBit (s : State) (k : Nibble) (b : Bool) : State := { s with keys := s.keys.set k.toNat b k.isLt }

/-- Whether the key an 8-bit value names is pressed; a value above 15 names an absent key
(10_state.md R37, 45_keys_timers.md R180). -/
def State.pressed (s : State) (k : Byte) : Bool :=
  if h : k.toNat < 16 then s.keys[k.toNat] else false

/-- The result code of the step (60_exceptions.md R220; log 10). -/
def State.setResult (s : State) (r : StepResult) : State := { s with result := r }

/-- `raise r`: ends the instruction with the failure as the step's result. "It is not a control transfer:
no state is changed by the raise itself" (00_scope.md R10; 60_exceptions.md R228). -/
def State.raise (s : State) (r : StepResult) : Answer := .next (s.setResult r)

/-- `STACK[SP] <- w; SP <- SP + 1` where an entry is free (41_control_flow.md R111). -/
def State.push (s : State) (w : Word) (h : s.sp.val < 16) : State :=
  { s with stack := s.stack.set s.sp.val w, sp := ⟨s.sp.val + 1, by omega⟩ }

/-- `STACK[SP - 1]` where an entry is in use (41_control_flow.md R112). -/
def State.top (s : State) (h : 0 < s.sp.val) : Word := s.stack[s.sp.val - 1]'(by omega)

/-- `SP <- SP - 1`; the popped entry keeps its value (41_control_flow.md R112, 10_state.md R29, D25; log 26). -/
def State.drop (s : State) : State := { s with sp := ⟨s.sp.val - 1, by omega⟩ }

/-- `draw_rnd()`: the next byte of the `rnd` stream, a free value (43_immediate_random.md R152; log 8). -/
def State.rndByte (s : State) : Byte := Config.rnd s.rndIndex

/-- One byte of the `rnd` stream is consumed (43_immediate_random.md R152). -/
def State.consumeRnd (s : State) : State := { s with rndIndex := s.rndIndex + 1 }

/-- The active display width (00_scope.md R10, 10_state.md R34). -/
def State.width (s : State) : Nat := if s.hires then 128 else 64

/-- The active display height (00_scope.md R10, 10_state.md R34). -/
def State.height (s : State) : Nat := if s.hires then 64 else 32

/-- The execution state, a function of the two latches (10_state.md R36). -/
def State.execState (s : State) : ExecState :=
  if s.keyWait then .awaitingKey else if s.frameWait then .awaitingFrame else .running

/-- `KEYWAIT = 1 or FRAMEWAIT = 1` (40_fetch_dispatch.md R91). -/
def State.suspended (s : State) : Bool := s.keyWait || s.frameWait

/-- The fetched word, `MemRead(PC, 2)` (40_fetch_dispatch.md R92). -/
def State.fetchWord (s : State) : Word := Memory.readWord s.mem s.pc.toNat

/-- The state an instruction's body starts from: `PC` past the word (40_fetch_dispatch.md R92), the
result `OK` unless the body raises (R90). -/
def State.fetched (s : State) : State := s.advance.setResult .ok

end Sys2Proof.Machine
end

