-- ==== Sys2Proof/Machine/Operands.lean ====
section
/-! DEFINITION. The operands of the instructions: the quirk bits (10_state.md R35), immediates (30_encoding.md R74), the registers a quirk selects, the bytes moved through `I`, the glyph address and the scroll distance. Every operand is read from the state before any write (42_alu.md R140, D9; log 14). -/

namespace Sys2Proof.Machine

/-- `Q.shiftVxOnly`, bit 0 (10_state.md R35, D17; log 19). -/
def State.shiftVxOnly (s : State) : Bool := s.q.getLsbD 0

/-- `Q.logicNoVF`, bit 1. -/
def State.logicNoVF (s : State) : Bool := s.q.getLsbD 1

/-- `Q.jumpWithVx`, bit 2. -/
def State.jumpWithVx (s : State) : Bool := s.q.getLsbD 2

/-- `Q.loadStoreIAdd`, bit 3 (polarity: D20, log 22). -/
def State.loadStoreIAdd (s : State) : Bool := s.q.getLsbD 3

/-- `Q.legacySchipScroll`, bit 4. -/
def State.legacySchipScroll (s : State) : Bool := s.q.getLsbD 4

/-- `Q.spriteWrap`, bit 5 (D12; log 16). -/
def State.spriteWrap (s : State) : Bool := s.q.getLsbD 5

/-- `zext_16(nnn)` (30_encoding.md R74). -/
def addrWord (nnn : Addr) : Word := nnn.setWidth 16

/-- `zext_16(b)` of a register byte (00_scope.md R10). -/
def byteWord (b : Byte) : Word := b.setWidth 16

/-- `zext_8(code)` (48_host_operations.md R201). -/
def nibbleByte (k : Nibble) : Byte := k.setWidth 8

/-- The target of the offset jump: `nnn + V[r]` with `r` 0, or under `Q.jumpWithVx` the field `x`, the
top nibble of `nnn` (41_control_flow.md R113). -/
def State.offsetTarget (s : State) (nnn : Addr) : Word :=
  addrWord nnn + byteWord (s.reg (if s.jumpWithVx then nnn.extractLsb' 8 4 else 0#4))

/-- The value a shift shifts: `V[x]` under `Q.shiftVxOnly`, else `V[y]` (42_alu.md R137, R139). -/
def State.shiftOperand (s : State) (x y : Nibble) : Byte :=
  if s.shiftVxOnly then s.reg x else s.reg y

/-- Three decimal digits of a byte, hundreds first (46_index_memory.md R193). -/
def bcdDigits (b : Byte) : List Byte :=
  [BitVec.ofNat 8 (b.toNat / 100), BitVec.ofNat 8 (b.toNat / 10 % 10), BitVec.ofNat 8 (b.toNat % 10)]

/-- The registers `V[0]` to `V[x]` in ascending order (46_index_memory.md R194). -/
def State.regsUpTo (s : State) (x : Nibble) : List Byte :=
  (List.range (x.toNat + 1)).map fun k => s.reg (BitVec.ofNat 4 k)

/-- `I` after a block transfer: `I + x + 1` under `Q.loadStoreIAdd`, else `I`
(46_index_memory.md R194, R195, D20, D31; log 22). -/
def State.blockI (s : State) (x : Nibble) : Word :=
  if s.loadStoreIAdd then s.i + BitVec.ofNat 16 (x.toNat + 1) else s.i

/-- The address of the glyph of a digit: `5 * (v & 0x0F)` (46_index_memory.md R192). -/
def glyphAddress (b : Byte) : Word := 5 * byteWord (b &&& 0x0F)

/-- `dist(q)`: the scroll distance, halved rounding down under `Q.legacySchipScroll` in low-res
(44_draw_display.md R164, D16; log 18). -/
def State.scrollDist (s : State) (requested : Nat) : Nat :=
  if s.legacySchipScroll && !s.hires then requested / 2 else requested

/-- A sprite coordinate: taken modulo the active size under `Q.spriteWrap`, else left to be clipped
(44_draw_display.md R160, D12; log 16). -/
def spriteCoord (wrap : Bool) (size p : Nat) : Nat := if wrap then p % size else p

end Sys2Proof.Machine
end

