-- ==== Sys2Proof/Machine/Flags.lean ====
section
/-! DEFINITION. The flag `VF` (10_state.md R23): the value each instruction gives it, and the two writes, flag and result, in the order of the parameter VF_ORDER (42_alu.md R140). -/

namespace Sys2Proof.Machine

/-- The flag is written as a whole byte of value 0 or 1 (10_state.md R23). -/
def flagByte (b : Bool) : Byte := if b then 1 else 0

/-- Carry: "1 iff the 9-bit sum exceeds 0xFF" (42_alu.md R134). -/
def carryFlag (a b : Byte) : Byte := flagByte (decide (a.toNat + b.toNat > 0xFF))

/-- Not borrow of `a - b`: 1 iff `a >= b` (42_alu.md R135). -/
def notBorrowFlag (a b : Byte) : Byte := flagByte (decide (b.toNat ≤ a.toNat))

/-- The bit a right shift moves out (42_alu.md R137). -/
def shrFlag (a : Byte) : Byte := flagByte (a.getLsbD 0)

/-- The bit a left shift moves out (42_alu.md R139). -/
def shlFlag (a : Byte) : Byte := flagByte (a.getLsbD 7)

/-- Writes a result to `V[x]` and a flag to `VF` in the given order, so that the later write remains
when `x` is 15 (42_alu.md R140, D8; log 4). -/
def State.writeFlagged (s : State) (order : WriteOrder) (x : Nibble) (result flag : Byte) : State :=
  match order with
  | .flagThenResult => (s.setReg vf flag).setReg x result
  | .resultThenFlag => (s.setReg x result).setReg vf flag

/-- Writes the result of a logic instruction: the flag is zeroed unless `Q.logicNoVF` is set
(42_alu.md R131). -/
def State.writeLogic (s : State) (x : Nibble) (result : Byte) : State :=
  if s.logicNoVF then s.setReg x result else s.writeFlagged s.params.vfLogic x result 0

end Sys2Proof.Machine
end

