-- ==== Sys2Proof/Machine/Alu.lean ====
section
/-! DEFINITION. The register-to-register family 8xy_ (42_alu.md): 8-bit unsigned arithmetic modulo 256 (R136), operands read once before any write (R140). -/

namespace Sys2Proof.Machine

/-- `LD Vx Vy` (R130). -/
def execLdVxVy (x y : Nibble) (s : State) : Answer := .next (s.setReg x (s.reg y))

/-- `OR Vx Vy` (R131). -/
def execOrVxVy (x y : Nibble) (s : State) : Answer := .next (s.writeLogic x (s.reg x ||| s.reg y))

/-- `AND Vx Vy` (R132). -/
def execAndVxVy (x y : Nibble) (s : State) : Answer := .next (s.writeLogic x (s.reg x &&& s.reg y))

/-- `XOR Vx Vy` (R133). -/
def execXorVxVy (x y : Nibble) (s : State) : Answer := .next (s.writeLogic x (s.reg x ^^^ s.reg y))

/-- `ADD Vx Vy` (R134). -/
def execAddVxVy (x y : Nibble) (s : State) : Answer :=
  .next (s.writeFlagged s.params.vfAdd x (s.reg x + s.reg y) (carryFlag (s.reg x) (s.reg y)))

/-- `SUB Vx Vy` (R135). -/
def execSubVxVy (x y : Nibble) (s : State) : Answer :=
  .next (s.writeFlagged s.params.vfSub x (s.reg x - s.reg y) (notBorrowFlag (s.reg x) (s.reg y)))

/-- `SUBN Vx Vy` (R138): the minuend is `V[y]`. -/
def execSubnVxVy (x y : Nibble) (s : State) : Answer :=
  .next (s.writeFlagged s.params.vfSub x (s.reg y - s.reg x) (notBorrowFlag (s.reg y) (s.reg x)))

/-- `SHR Vx Vy` (R137). -/
def execShrVxVy (x y : Nibble) (s : State) : Answer :=
  .next (s.writeFlagged s.params.vfShift x (s.shiftOperand x y >>> 1) (shrFlag (s.shiftOperand x y)))

/-- `SHL Vx Vy` (R139). -/
def execShlVxVy (x y : Nibble) (s : State) : Answer :=
  .next (s.writeFlagged s.params.vfShift x (s.shiftOperand x y <<< 1) (shlFlag (s.shiftOperand x y)))

end Sys2Proof.Machine
end

