-- ==== Sys2Proof/Machine/ControlFlow.lean ====
section
/-! DEFINITION. Jumps, call, return and the register skips (41_control_flow.md). Each body starts with `PC` at the instruction's address + 2. -/

namespace Sys2Proof.Machine

/-- A skip: `PC <- PC + 2` once more when the condition holds (41_control_flow.md section 3). -/
def State.skipIf (s : State) (c : Bool) : State := if c then s.advance else s

/-- `JP nnn` (R110). -/
def execJp (nnn : Addr) (s : State) : Answer := .next (s.setPc (addrWord nnn))

/-- `CALL nnn` (R111): pushes the auto-incremented `PC`; with 16 entries in use it fails and changes
nothing. -/
def execCall (nnn : Addr) (s : State) : Answer :=
  if h : s.sp.val < 16 then .next ((s.push s.pc h).setPc (addrWord nnn))
  else s.raise .stackOverflow

/-- `RET` (R112): pops into `PC`; with no entry in use it fails and changes nothing. -/
def execRet (s : State) : Answer :=
  if h : 0 < s.sp.val then .next (s.drop.setPc (s.top h))
  else s.raise .stackUnderflow

/-- `JP V0 nnn`, the offset jump (R113). -/
def execJpV0 (nnn : Addr) (s : State) : Answer := .next (s.setPc (s.offsetTarget nnn))

/-- `SE Vx kk` (R114). -/
def execSeVxKk (x : Nibble) (kk : Byte) (s : State) : Answer := .next (s.skipIf (s.reg x == kk))

/-- `SNE Vx kk` (R115). -/
def execSneVxKk (x : Nibble) (kk : Byte) (s : State) : Answer := .next (s.skipIf (s.reg x != kk))

/-- `SE Vx Vy` (R116). -/
def execSeVxVy (x y : Nibble) (s : State) : Answer := .next (s.skipIf (s.reg x == s.reg y))

/-- `SNE Vx Vy` (R117). -/
def execSneVxVy (x y : Nibble) (s : State) : Answer := .next (s.skipIf (s.reg x != s.reg y))

end Sys2Proof.Machine
end

