-- ==== Sys2Proof/Machine/Display.lean ====
section
/-! DEFINITION. Draw, clear, display mode and scrolling (44_draw_display.md). -/

namespace Sys2Proof.Machine

/-- One sprite bit of value 1 meets the pixel `(px, py)`: outside the active `w` by `h` rectangle it is
clipped, inside it inverts the pixel and a set pixel is a collision (R160). -/
def plot (w h : Nat) (wrap : Bool) (px py : Nat) (acc : FrameBuffer × Bool) : FrameBuffer × Bool :=
  let px := spriteCoord wrap w px
  let py := spriteCoord wrap h py
  if px < w ∧ py < h then
    let old := FrameBuffer.pixel acc.1 px py
    (FrameBuffer.setPixel acc.1 px py (!old), acc.2 || old)
  else acc

/-- One sprite row: bit 7 is the leftmost column (R160). -/
def drawRow (w h : Nat) (wrap : Bool) (b : Byte) (x0 y : Nat) (acc : FrameBuffer × Bool) :
    FrameBuffer × Bool :=
  (List.range 8).foldl
    (fun acc c => if b.getLsbD (7 - c) then plot w h wrap (x0 + c) y acc else acc) acc

/-- All rows of a sprite, the byte of row `r` read at `I + r`, from the anchor `(V[x] mod W, V[y] mod H)`
(R160): the new display and whether a set pixel was met. -/
def State.drawSprite (s : State) (x y n : Nibble) : FrameBuffer × Bool :=
  (List.range n.toNat).foldl
    (fun acc r => drawRow s.width s.height s.spriteWrap (s.memByte (s.i.toNat + r))
      ((s.reg x).toNat % s.width) ((s.reg y).toNat % s.height + r) acc)
    (s.fb, false)

/-- `DRW Vx Vy n` (R160): every executed draw sets the frame-wait latch (D11; log 15). -/
def execDrw (x y n : Nibble) (s : State) : Answer :=
  .next (((s.setFb (s.drawSprite x y n).1).setReg vf (flagByte (s.drawSprite x y n).2)).setFrameWait true)

/-- `CLS` (R161): clears the whole storage in either mode (D13; log 17). -/
def execCls (s : State) : Answer := .next (s.setFb FrameBuffer.clear)

/-- A mode switch: sets `HIRES` and, only where the parameter MODE_SWITCH_CLEARS says so, clears the
display (R162, R163, D15; log 5). -/
def State.switchMode (s : State) (hires : Bool) : State :=
  if s.params.modeSwitchClears then (s.setHires hires).setFb FrameBuffer.clear else s.setHires hires

/-- `LOW` (R162). -/
def execLow (s : State) : Answer := .next (s.switchMode false)

/-- `HIGH` (R163). -/
def execHigh (s : State) : Answer := .next (s.switchMode true)

/-- A scroll: every pixel of the active rectangle takes its new value from `f`, pixels outside keep
theirs (R164). -/
def State.scrollWith (s : State) (f : Nat → Nat → Bool) : State :=
  s.setFb (FrameBuffer.tabulate fun px py =>
    if px < s.width ∧ py < s.height then f px py else s.pixel px py)

/-- `SCD n` (R165): rows move toward larger `y` by `dist(n)`. -/
def execScd (n : Nibble) (s : State) : Answer :=
  .next (s.scrollWith fun px py =>
    if s.scrollDist n.toNat ≤ py then s.pixel px (py - s.scrollDist n.toNat) else false)

/-- `SCR` (R166): columns move toward larger `x` by `dist(SCROLL_H_DIST)`. -/
def execScr (s : State) : Answer :=
  .next (s.scrollWith fun px py =>
    if s.scrollDist s.params.scrollHDist ≤ px then s.pixel (px - s.scrollDist s.params.scrollHDist) py
    else false)

/-- `SCL` (R167): columns move toward smaller `x` by `dist(SCROLL_H_DIST)`; the source column is never
outside the active rectangle. -/
def execScl (s : State) : Answer :=
  .next (s.scrollWith fun px py =>
    if px + s.scrollDist s.params.scrollHDist < s.width
    then s.pixel (px + s.scrollDist s.params.scrollHDist) py else false)

end Sys2Proof.Machine
end

