-- ==== Sys2Proof/Machine/Immediate.lean ====
section
/-! DEFINITION. The byte-immediate family and the random instruction (43_immediate_random.md). -/

namespace Sys2Proof.Machine

/-- `LD Vx kk` (R150). -/
def execLdVxKk (x : Nibble) (kk : Byte) (s : State) : Answer := .next (s.setReg x kk)

/-- `ADD Vx kk` (R151): wraps, no flag. -/
def execAddVxKk (x : Nibble) (kk : Byte) (s : State) : Answer := .next (s.setReg x (s.reg x + kk))

/-- `RND Vx kk` (R152): the drawn byte is a free value, one consumed whatever `kk` is. -/
def execRnd (x : Nibble) (kk : Byte) (s : State) : Answer :=
  .next (s.consumeRnd.setReg x (s.rndByte &&& kk))

end Sys2Proof.Machine
end

