-- ==== Sys2Proof/Machine/IndexMemory.lean ====
section
/-! DEFINITION. The index register and the loads and stores through it (46_index_memory.md). Each byte address is `(I + k) mod 4096` (20_memory.md R51). -/

namespace Sys2Proof.Machine

/-- `LD I nnn` (R190). -/
def execLdI (nnn : Addr) (s : State) : Answer := .next (s.setI (addrWord nnn))

/-- `ADD I Vx` (R191): 16 bits kept, no flag (D29; log 28). -/
def execAddIVx (x : Nibble) (s : State) : Answer := .next (s.setI (s.i + byteWord (s.reg x)))

/-- `LD F Vx` (R192): the guard masks the source register to its low nibble; below 16 that changes
nothing. -/
def execLdFVx (x : Nibble) (s : State) : Answer :=
  .next ((s.setReg x (s.reg x &&& 0x0F)).setI (glyphAddress (s.reg x)))

/-- `LD B Vx` (R193): the decimal digits at `I`, `I + 1`, `I + 2`. -/
def execLdBVx (x : Nibble) (s : State) : Answer :=
  .next (s.storeBytes s.i.toNat (bcdDigits (s.reg x)))

/-- `LD [I] Vx`, the block store (R194). -/
def execLdMemVx (x : Nibble) (s : State) : Answer :=
  .next ((s.storeBytes s.i.toNat (s.regsUpTo x)).setI (s.blockI x))

/-- `V[k] <- MemRead(I + k, 1)` for the first `count` registers, ascending (R195). -/
def State.loadRegs (s : State) (count : Nat) : State :=
  (List.range count).foldl (fun t k => t.setReg (BitVec.ofNat 4 k) (s.memByte (s.i.toNat + k))) s

/-- `LD Vx [I]`, the block load (R195). -/
def execLdVxMem (x : Nibble) (s : State) : Answer :=
  .next ((s.loadRegs (x.toNat + 1)).setI (s.blockI x))

end Sys2Proof.Machine
end

