-- ==== Sys2Proof/Machine/KeysTimers.lean ====
section
/-! DEFINITION. The key and timer instructions (45_keys_timers.md). -/

namespace Sys2Proof.Machine

/-- `SKP Vx` (R180): the whole 8-bit value names the key. -/
def execSkp (x : Nibble) (s : State) : Answer := .next (s.skipIf (s.pressed (s.reg x)))

/-- `SKNP Vx` (R181). -/
def execSknp (x : Nibble) (s : State) : Answer := .next (s.skipIf (!s.pressed (s.reg x)))

/-- `LD Vx K` (R182): starts the key wait; `V[x]` is written later, by `setKey`. -/
def execLdVxK (x : Nibble) (s : State) : Answer := .next (s.awaitKey x)

/-- `LD Vx DT` (R183). -/
def execLdVxDt (x : Nibble) (s : State) : Answer := .next (s.setReg x s.dt)

/-- `LD DT Vx` (R184). -/
def execLdDtVx (x : Nibble) (s : State) : Answer := .next (s.setDt (s.reg x))

/-- `LD ST Vx` (R185). -/
def execLdStVx (x : Nibble) (s : State) : Answer := .next (s.setSt (s.reg x))

end Sys2Proof.Machine
end

