-- ==== Sys2Proof/Machine/HostOps.lean ====
section
/-! DEFINITION. The five host operations (40_fetch_dispatch.md, 48_host_operations.md, 70_reset_and_hazards.md), the read accessors, and the end of a run. -/

namespace Sys2Proof.Machine

/-- `stepInstruction()` (40_fetch_dispatch.md R90): a no-op that returns OK while suspended (R91, D23;
log 12), else fetch, auto-increment, decode and one body; an undecodable word is a reported failure
with the auto-increment as its only effect (R95). -/
def stepInstruction (s : State) : Answer :=
  if s.suspended then .next (s.setResult .ok)
  else
    match decode s.fetchWord with
    | .error _ => s.fetched.raise .decodeFailure
    | .ok i => exec i s.fetched

/-- A timer counts down by one and stops at 0 (48_host_operations.md R200). -/
def countDown (b : Byte) : Byte := if b = 0 then 0 else b - 1

/-- `stepFrame()` (48_host_operations.md R200). -/
def stepFrame (s : State) : State := ((s.setDt (countDown s.dt)).setSt (countDown s.st)).setFrameWait false

/-- `setKey(code, pressed)` (48_host_operations.md R201, R202): a press while `KEYWAIT = 1` ends the wait
and writes the code (D21; log 23). -/
def setKey (code : Nibble) (pressed : Bool) (s : State) : State :=
  if pressed && s.keyWait then ((s.setKeyBit code pressed).setReg s.keyReg (nibbleByte code)).endKeyWait
  else s.setKeyBit code pressed

/-- `setQuirks(quirks)` (48_host_operations.md R204). -/
def setQuirks (quirks : Quirks) (s : State) : State := { s with q := quirks }

/-- The state after a successful `load` (70_reset_and_hazards.md R240): everything as after reset but
the quirks and the memory image; the `rnd` stream, the parameters and the host's coming operations are
not affected (log 29, 32). -/
def loaded (program : List Byte) (quirks : Quirks) (s : State) : State :=
  { State.reset with
    q := quirks
    mem := Memory.image s.params.font.toList program
    rndIndex := s.rndIndex
    loadFailures := s.loadFailures
    inputs := s.inputs
    params := s.params }

/-- A free byte of the state after a rejected `load`. -/
def unspecifiedByte (k e : Nat) : Byte := BitVec.ofNat 8 (Config.unspecified k e)

/-- A free 16-bit value of the state after a rejected `load`. -/
def unspecifiedWord (k e : Nat) : Word := BitVec.ofNat 16 (Config.unspecified k e)

/-- A free bit of the state after a rejected `load`. -/
def unspecifiedBit (k e : Nat) : Bool := Config.unspecified k e % 2 == 1

/-- The free memory after a rejected `load`. -/
def unspecifiedMem (k : Nat) : Memory := Memory.tabulate fun a => unspecifiedByte k (64 + a)

/-- The free display after a rejected `load`. -/
def unspecifiedFb (k : Nat) : FrameBuffer :=
  FrameBuffer.tabulate fun px py => unspecifiedBit k (4160 + (64 * px + py))

/-- The state after a rejected `load`: every element has an unspecified value (70_reset_and_hazards.md
R241, D5, U2), a free value numbered by the count of rejected loads and a number of the element (log 11). -/
def loadRejected (s : State) : State :=
  let k := s.loadFailures
  { s with
    v := Vector.ofFn fun r : Fin 16 => unspecifiedByte k r.val
    stack := Vector.ofFn fun j : Fin 16 => unspecifiedWord k (16 + j.val)
    keys := Vector.ofFn fun j : Fin 16 => unspecifiedBit k (32 + j.val)
    i := unspecifiedWord k 48
    pc := unspecifiedWord k 49
    sp := ⟨Config.unspecified k 50 % 17, by omega⟩
    dt := unspecifiedByte k 51
    st := unspecifiedByte k 52
    keyWait := unspecifiedBit k 53
    keyReg := BitVec.ofNat 4 (Config.unspecified k 54)
    frameWait := unspecifiedBit k 55
    hires := unspecifiedBit k 56
    q := BitVec.ofNat 6 (Config.unspecified k 57)
    mem := unspecifiedMem k
    fb := unspecifiedFb k
    loadResult := .loadFail
    loadFailures := k + 1 }

/-- `load(programBytes, quirks)` (70_reset_and_hazards.md R240, R241): it fails exactly when the program
is longer than 3584 bytes. -/
def load (program : List Byte) (quirks : Quirks) (s : State) : State :=
  if program.length ≤ 3584 then loaded program quirks s else loadRejected s

/-- Answers `a`, but refuses by name while the latest `load` was rejected (70_reset_and_hazards.md R241). -/
def State.ifLoaded (s : State) (a : Answer) : Answer :=
  match s.loadResult with
  | .loadOk => a
  | .loadFail => .refused .afterRejectedLoad

/-- One host operation (00_scope.md R11). -/
def runHostOp (op : HostOp) (s : State) : Answer :=
  match op with
  | .load program quirks => .next (load program quirks s)
  | .stepInstruction => s.ifLoaded (stepInstruction s)
  | .stepFrame => s.ifLoaded (.next (stepFrame s))
  | .setKey code pressed => s.ifLoaded (.next (setKey code pressed s))
  | .setQuirks quirks => s.ifLoaded (.next (setQuirks quirks s))

/-- The operation the next step performs: the first of the coming ones, `stepInstruction` when none is
listed (DESIGN CHOICE, log 9). -/
def State.nextOp (s : State) : HostOp := s.inputs.headD .stepInstruction

/-- The state the next operation is performed on: the operation is taken off the list. -/
def State.takeOp (s : State) : State := { s with inputs := s.inputs.tail }

/-- The run is over, a predicate of the model's own (70_reset_and_hazards.md R251, U17; log 39): the core
is running after a successful `load` and the word at `PC` is a jump to `PC`. A `PC` of 4096 or more is
excluded, since the jump would clear its upper bits. -/
def State.runOver (s : State) : Bool :=
  s.loadResult == .loadOk && s.execState == .running && decide (s.pc.toNat < 4096) &&
    s.fetchWord == 0x1#4 ++ s.pc.setWidth 12

/-- Read accessor: the display of the active size, column by column (48_host_operations.md R205). -/
def State.display (s : State) : List (List Bool) :=
  (List.range s.width).map fun px => (List.range s.height).map fun py => s.pixel px py

/-- Read accessor: the high-resolution flag (48_host_operations.md R205). -/
def State.highResolution (s : State) : Bool := s.hires

/-- The 2-bit code of a step's result (60_exceptions.md R220, D18; log 20). -/
def StepResult.code : StepResult → BitVec 2
  | .ok => 0
  | .decodeFailure => 1
  | .stackOverflow => 2
  | .stackUnderflow => 3

end Sys2Proof.Machine
end

