-- ==== Sys2Proof/Machine/Step.lean ====
section
/-! DEFINITION. One step of the machine: the next host operation, run to completion (00_scope.md R11, R12). -/

namespace Sys2Proof.Machine

/-- One step: the host's next operation, performed atomically; where the host lists none it is
`stepInstruction` (log 9). -/
def step (s : State) : Host.Outcome State Fault Refusal := runHostOp s.nextOp s.takeOp

/-- The state with an instruction stored where the next step fetches it, both latches clear, the latest
`load` successful and `stepInstruction` the host's next operation, so that the very next step runs it.
It stands for the `load` of a program (log 7). -/
def State.withFetchWord (s : State) (nbits w : Nat) : State :=
  { s with
    mem := Memory.writeBytes s.mem s.pc.toNat
      [(tableWord nbits w).extractLsb' 8 8, (tableWord nbits w).extractLsb' 0 8]
    keyWait := false
    frameWait := false
    loadResult := .loadOk
    inputs := .stepInstruction :: s.inputs }

end Sys2Proof.Machine
end

