-- ==== Sys2Proof/Safety.lean ====
section
/-! DEFINITION. The terms the statements are written in: the parts of the state and what it means that an instruction keeps them (its frame), the invariant, the sprite as a set of pixels, and runs of host operations. -/

namespace Sys2Proof.Machine

/-- The parts of the state a frame speaks of. Together they are every field of State. -/
inductive Part where
  | regs
  | index
  | pc
  | stack
  | sp
  | delayTimer
  | soundTimer
  | keys
  | keyLatch
  | frameLatch
  | hires
  | pixels
  | quirks
  | memory
  | result
  | loadStatus
  | rndStream
  | inputs
  | params
  deriving DecidableEq, Repr

/-- The part has the same value in both states. Memory is compared byte by byte and the display pixel by
pixel. -/
def Kept (s t : State) : Part → Prop
  | .regs => ∀ r, t.reg r = s.reg r
  | .index => t.i = s.i
  | .pc => t.pc = s.pc
  | .stack => t.stack = s.stack
  | .sp => t.sp = s.sp
  | .delayTimer => t.dt = s.dt
  | .soundTimer => t.st = s.st
  | .keys => t.keys = s.keys
  | .keyLatch => t.keyWait = s.keyWait ∧ t.keyReg = s.keyReg
  | .frameLatch => t.frameWait = s.frameWait
  | .hires => t.hires = s.hires
  | .pixels => ∀ px py, t.pixel px py = s.pixel px py
  | .quirks => t.q = s.q
  | .memory => ∀ a, t.memByte a = s.memByte a
  | .result => t.result = s.result
  | .loadStatus => t.loadResult = s.loadResult ∧ t.loadFailures = s.loadFailures
  | .rndStream => t.rndIndex = s.rndIndex
  | .inputs => t.inputs = s.inputs
  | .params => t.params = s.params

/-- Every part but the named ones is unchanged: the frame of an instruction. -/
def Frame (changed : List Part) (s t : State) : Prop := ∀ p, p ∉ changed → Kept s t p

/-- Every general register but those in the list keeps its value. -/
def RegsKeptBut (changed : List Nibble) (s t : State) : Prop := ∀ r, r ∉ changed → t.reg r = s.reg r

/-- Every byte of memory but the `count` bytes from `addr` on, each address taken modulo 4096, reads as
before. -/
def BytesKeptBut (addr count : Nat) (s t : State) : Prop :=
  ∀ a, (∀ k, k < count → a % 4096 ≠ (addr + k) % 4096) → t.memByte a = s.memByte a

/-- What is true of every state a run reaches: memory is in its canonical form, and, unless the latest
`load` was rejected, `KEYWAIT` and `FRAMEWAIT` are not both set (10_state.md R36). -/
def Inv (s : State) : Prop :=
  Memory.wf s.mem = true ∧ (s.loadResult = .loadOk → ¬ (s.keyWait = true ∧ s.frameWait = true))

/-- The sprite of a `DRW`: whether bit `c` of row `r` is 1 (44_draw_display.md R160). -/
def State.spriteBit (s : State) (r c : Nat) : Bool := (s.memByte (s.i.toNat + r)).getLsbD (7 - c)

/-- The sprite of a `DRW` covers a pixel of the active rectangle: some set sprite bit lands on it, its
coordinates taken modulo the active size when `Q.spriteWrap` is set (44_draw_display.md R160). -/
def State.covers (s : State) (x y n : Nibble) (px py : Nat) : Prop :=
  px < s.width ∧ py < s.height ∧ ∃ r c, r < n.toNat ∧ c < 8 ∧ s.spriteBit r c = true ∧
    spriteCoord s.spriteWrap s.width ((s.reg x).toNat % s.width + c) = px ∧
    spriteCoord s.spriteWrap s.height ((s.reg y).toNat % s.height + r) = py

/-- Steps of the machine in a row, up to the first that gives no next state. -/
def steps : Nat → State → Answer
  | 0, s => .next s
  | k + 1, s =>
    match step s with
    | .next t => steps k t
    | other => other

/-- Frame ticks in a row. -/
def ticks : Nat → State → State
  | 0, s => s
  | k + 1, s => ticks k (stepFrame s)

/-- What remains in `V[15]` when `x` is 15, for each order of the two writes (42_alu.md R140). -/
def remains (order : WriteOrder) (result flag : Byte) : Byte :=
  match order with
  | .flagThenResult => result
  | .resultThenFlag => flag

/-- The result went to `V[x]` and the flag to `VF`, in the given order when both are `V[15]`; no other
register changed (42_alu.md R140). -/
def FlaggedWrite (order : WriteOrder) (x : Nibble) (result flag : Byte) (s t : State) : Prop :=
  (x ≠ vf → t.reg x = result ∧ t.reg vf = flag) ∧
  (x = vf → t.reg vf = remains order result flag) ∧
  RegsKeptBut [x, vf] s t

/-- The writes of a logic instruction: no flag under `Q.logicNoVF` (bit 1), else the flag 0
(42_alu.md R131). -/
def LogicWrite (x : Nibble) (result : Byte) (s t : State) : Prop :=
  (s.q.getLsbD 1 = true → t.reg x = result ∧ RegsKeptBut [x] s t) ∧
  (s.q.getLsbD 1 = false → FlaggedWrite s.params.vfLogic x result 0 s t)

/-- The parts an instruction may write: the column "written by" of the summary table of 10_state.md,
read the other way round, with the model's own parts (the result of a failure, the `rnd` stream) and the
clearing of `MODE_SWITCH_CLEARS`. -/
def writesOf : Instr → List Part
  | .cls | .scr | .scl | .scd _ => [.pixels]
  | .low | .high => [.hires, .pixels]
  | .ret => [.pc, .sp, .result]
  | .call _ => [.pc, .stack, .sp, .result]
  | .jp _ | .jpV0 _ => [.pc]
  | .skp _ | .sknp _ | .seVxVy _ _ | .sneVxVy _ _ | .seVxKk _ _ | .sneVxKk _ _ => [.pc]
  | .ldVxDt _ | .ldVxVy _ _ | .ldVxKk _ _ | .addVxKk _ _ => [.regs]
  | .orVxVy _ _ | .andVxVy _ _ | .xorVxVy _ _ => [.regs]
  | .addVxVy _ _ | .subVxVy _ _ | .subnVxVy _ _ | .shrVxVy _ _ | .shlVxVy _ _ => [.regs]
  | .ldVxK _ => [.keyLatch]
  | .ldDtVx _ => [.delayTimer]
  | .ldStVx _ => [.soundTimer]
  | .ldI _ | .addIVx _ => [.index]
  | .ldFVx _ => [.regs, .index]
  | .ldBVx _ => [.memory]
  | .ldMemVx _ => [.memory, .index]
  | .ldVxMem _ => [.regs, .index]
  | .rnd _ _ => [.regs, .rndStream]
  | .drw _ _ _ => [.regs, .pixels, .frameLatch]

/-- The registers an instruction may write: its destination, `VF` for the instructions of 10_state.md
R23, and `V[0]` to `V[x]` for the block load. -/
def destRegsOf : Instr → List Nibble
  | .ldVxDt x | .ldVxVy x _ | .ldVxKk x _ | .addVxKk x _ | .ldFVx x | .rnd x _ => [x]
  | .orVxVy x _ | .andVxVy x _ | .xorVxVy x _ => [x, vf]
  | .addVxVy x _ | .subVxVy x _ | .subnVxVy x _ | .shrVxVy x _ | .shlVxVy x _ => [x, vf]
  | .drw _ _ _ => [vf]
  | .ldVxMem x => (List.range (x.toNat + 1)).map (BitVec.ofNat 4)
  | .cls | .scr | .scl | .scd _ | .low | .high | .ret | .call _ | .jp _ | .jpV0 _ => []
  | .skp _ | .sknp _ | .seVxVy _ _ | .sneVxVy _ _ | .seVxKk _ _ | .sneVxKk _ _ => []
  | .ldVxK _ | .ldDtVx _ | .ldStVx _ | .ldI _ | .addIVx _ | .ldBVx _ | .ldMemVx _ => []

/-- The execution state after a `stepInstruction` in `RUNNING` (40_fetch_dispatch.md R98): waiting for a
key after `LD Vx K`, for a frame after `DRW`, else running. -/
def afterInstruction : Except DecodeError Instr → ExecState
  | .ok (.ldVxK _) => .awaitingKey
  | .ok (.drw _ _ _) => .awaitingFrame
  | _ => .running

/-- The transition table of 40_fetch_dispatch.md R98, for a successful operation. `word` is what the
fetched word decodes to. -/
def transition (word : Except DecodeError Instr) : ExecState → HostOp → ExecState
  | _, .load _ _ => .running
  | .running, .stepInstruction => afterInstruction word
  | .running, .stepFrame => .running
  | .running, .setKey _ _ => .running
  | .running, .setQuirks _ => .running
  | .awaitingKey, .stepInstruction => .awaitingKey
  | .awaitingKey, .stepFrame => .awaitingKey
  | .awaitingKey, .setKey _ pressed => if pressed then .running else .awaitingKey
  | .awaitingKey, .setQuirks _ => .awaitingKey
  | .awaitingFrame, .stepInstruction => .awaitingFrame
  | .awaitingFrame, .stepFrame => .running
  | .awaitingFrame, .setKey _ _ => .awaitingFrame
  | .awaitingFrame, .setQuirks _ => .awaitingFrame

/-- Nested calls, each given by the return address and the target: what happens between two calls is free
but for `PC`. -/
def nest : List (Word × Addr) → State → Answer
  | [], s => .next s
  | (back, target) :: calls, s =>
    match exec (.call target) (s.setPc back) with
    | .next t => nest calls t
    | other => other

/-- Returns in a row. -/
def unnest : Nat → State → Answer
  | 0, s => .next s
  | k + 1, s =>
    match exec .ret s with
    | .next t => unnest k t
    | other => other

end Sys2Proof.Machine
end

