-- ==== Sys2Proof/Certificates/Slice0/Obligations.lean ====
section
/-! DEFINITION. The statements for the provers. Each is listed in OBLIGATIONS.json with the rules of spec/ it comes from. A statement about an instruction names the word of its row, says that exec answers a next state, what that state holds, and that every part but the named ones is unchanged. -/

open Sys2Proof Sys2Proof.Machine

/-! ### Encoding -/

/-- Decoding the word or the bytes of an instruction gives it back, for every instruction and operand
(R75). -/
def Obligations.DecodeOfEncodeGivesInstructionBack : Prop :=
  ∀ i : Instr, decode (encode i) = .ok i ∧
    ∀ rest : List Byte, decodeBytes (encodeBytes i ++ rest) = .ok (i, rest)

/-- A word that decodes is the word of the instruction it decodes to: no bit of a word is ignored
(R75). For `5xy0` and `9xy0` this rests on the strict low nibble, the spec's decision D19 (R78; log 21). -/
def Obligations.EncodeOfDecodeGivesWordBack : Prop :=
  ∀ (w : Word) (i : Instr), decode w = .ok i → encode i = w

/-- The decoder agrees with the ordered scan of the opcode table of 39 (pattern, mask) pairs: it gives
the instruction of the first row the word matches, and fails exactly when no row matches (R94, R95). -/
def Obligations.DecodeIsFirstMatchOfOpcodeTable : Prop :=
  opcodeTable.length = 39 ∧
  ∀ w : Word, firstMatch w = match decode w with
    | .ok i => some i.row
    | .error _ => none

/-- No word matches two rows of the opcode table (R76, which marks it as derived). -/
def Obligations.OpcodeTableRowsAreDisjoint : Prop :=
  ∀ (w : Word) (j k : Nat) (hj : j < opcodeTable.length) (hk : k < opcodeTable.length),
    rowMatches w opcodeTable[j] = true → rowMatches w opcodeTable[k] = true → j = k

/-- The undecodable words are exactly the six families of R78, each rejected by its own name (strict low
nibbles and no `0nnn` row: the spec's decision D19). -/
def Obligations.UndecodableWordsAreSixFamilies : Prop :=
  ∀ w : Word,
    (decode w = .error .unknown0 ↔ w.toNat / 4096 = 0 ∧ w.toNat / 16 ≠ 0x00C ∧
      w.toNat ∉ [0x00E0, 0x00EE, 0x00FB, 0x00FC, 0x00FE, 0x00FF]) ∧
    (decode w = .error .unknown5 ↔ w.toNat / 4096 = 0x5 ∧ w.toNat % 16 ≠ 0) ∧
    (decode w = .error .unknown8 ↔ w.toNat / 4096 = 0x8 ∧
      w.toNat % 16 ∈ [0x8, 0x9, 0xA, 0xB, 0xC, 0xD, 0xF]) ∧
    (decode w = .error .unknown9 ↔ w.toNat / 4096 = 0x9 ∧ w.toNat % 16 ≠ 0) ∧
    (decode w = .error .unknownE ↔ w.toNat / 4096 = 0xE ∧ w.toNat % 256 ∉ [0x9E, 0xA1]) ∧
    (decode w = .error .unknownF ↔ w.toNat / 4096 = 0xF ∧
      w.toNat % 256 ∉ [0x07, 0x0A, 0x15, 0x18, 0x1E, 0x29, 0x33, 0x55, 0x65]) ∧
    decode w ≠ .error .truncated

/-- A few words decode as the spec's own vectors say (S11 and part 2.1) (R75). -/
def Obligations.SampleWordsDecodeAsListed : Prop :=
  decode 0x3542#16 = .ok (.seVxKk 5 0x42) ∧ decode 0x878E#16 = .ok (.shlVxVy 7 8) ∧
  decode 0x00C5#16 = .ok (.scd 5) ∧ decode 0x1ABC#16 = .ok (.jp 0xABC) ∧
  decode 0xB300#16 = .ok (.jpV0 0x300) ∧ decode 0xC30F#16 = .ok (.rnd 3 0x0F) ∧
  decode 0xD011#16 = .ok (.drw 0 1 1) ∧ decode 0xE29E#16 = .ok (.skp 2) ∧
  decode 0xF155#16 = .ok (.ldMemVx 1) ∧ decode 0x0000#16 = .error .unknown0 ∧
  decode 0x5121#16 = .error .unknown5 ∧ decode 0xFFFF#16 = .error .unknownF

/-! ### The step -/

/-- When the two bytes at `PC` decode to an instruction, a step that performs `stepInstruction` is exec
of it on the state with `PC` two higher, result OK and the operation taken off the host's list (the list
and the result are the model's own, log 9, 10) (R90, R92). -/
def Obligations.StepRunsDecodedInstruction : Prop :=
  ∀ (s : State) (i : Instr), s.nextOp = .stepInstruction → s.loadResult = .loadOk →
    s.keyWait = false → s.frameWait = false →
    decode (s.memByte s.pc.toNat ++ s.memByte (s.pc.toNat + 1)) = .ok i →
    step s = exec i { s with pc := s.pc + 2, result := .ok, inputs := s.inputs.tail }

/-- A suspended `stepInstruction` changes no state element and returns OK (R91). That `FRAMEWAIT` suspends
is the spec's choice of C1 and D11 (log 15), that the result is OK its decision D23 (log 12). -/
def Obligations.SuspendedStepChangesNothing : Prop :=
  ∀ s : State, s.nextOp = .stepInstruction → s.loadResult = .loadOk →
    (s.keyWait = true ∨ s.frameWait = true) →
    step s = .next { s with result := .ok, inputs := s.inputs.tail }

/-- An undecodable word advances `PC` and reports the failure; nothing else changes (R221). -/
def Obligations.UndecodableWordReportsDecodeFailure : Prop :=
  ∀ (s : State) (e : DecodeError), s.nextOp = .stepInstruction → s.loadResult = .loadOk →
    s.keyWait = false → s.frameWait = false →
    decode (s.memByte s.pc.toNat ++ s.memByte (s.pc.toNat + 1)) = .error e →
    step s = .next { s with pc := s.pc + 2, result := .decodeFailure, inputs := s.inputs.tail }

/-- `CALL` with 16 entries in use and `RET` with none advance `PC` and report their failure; nothing
else changes (R222, R223). -/
def Obligations.StackFailuresOnlyAdvancePc : Prop :=
  ∀ s : State, s.nextOp = .stepInstruction → s.loadResult = .loadOk →
    s.keyWait = false → s.frameWait = false →
    (∀ nnn : Addr, s.fetchWord = 0x2#4 ++ nnn → s.sp.val = 16 →
      step s = .next { s with pc := s.pc + 2, result := .stackOverflow, inputs := s.inputs.tail }) ∧
    (s.fetchWord = 0x00EE#16 → s.sp.val = 0 →
      step s = .next { s with pc := s.pc + 2, result := .stackUnderflow, inputs := s.inputs.tail })

/-- The three failures are reported exactly where the table of R220 says; every other `stepInstruction`
after a successful `load` returns OK, a suspended one too. The codes are the spec's decision
D18 (log 20); that `FRAMEWAIT` suspends is its choice of C1 and D11 (log 15), that a suspended step
returns OK its decision D23 (log 12). -/
def Obligations.StepResultIsFailureExactlyWhenListed : Prop :=
  (StepResult.ok.code = 0 ∧ StepResult.decodeFailure.code = 1 ∧ StepResult.stackOverflow.code = 2 ∧
    StepResult.stackUnderflow.code = 3) ∧
  ∀ s : State, s.nextOp = .stepInstruction → s.loadResult = .loadOk →
    ∃ t, step s = .next t ∧
      t.result =
        if s.keyWait = true ∨ s.frameWait = true then .ok
        else match decode s.fetchWord with
          | .error _ => .decodeFailure
          | .ok (.call _) => if s.sp.val = 16 then .stackOverflow else .ok
          | .ok .ret => if s.sp.val = 0 then .stackUnderflow else .ok
          | .ok _ => .ok

/-- No failure stops the core: a step answers a next state unless the latest `load` was rejected and the
operation is no `load`; then it is refused (the refusal is the model's reading of R241 and U2, log 11). -/
def Obligations.OnlyRejectedLoadStopsAStep : Prop :=
  ∀ s : State,
    ((s.loadResult = .loadOk ∨ ∃ p q, s.nextOp = .load p q) → ∃ t, step s = .next t) ∧
    ((s.loadResult = .loadFail ∧ ∀ p q, s.nextOp ≠ .load p q) → step s = .refused .afterRejectedLoad)

/-- The fetch reads two bytes big-endian at `PC mod 4096` and `(PC + 1) mod 4096`, so bits 15:12 of `PC`
select nothing, and a block store at the fetched addresses is seen by the fetch: with `PC = I` and `x`
at least 1 the next fetched word is `V[0] ++ V[1]` (R61, which marks coherence as derived). -/
def Obligations.FetchSeesLatestStore : Prop :=
  (∀ s : State, s.fetchWord = s.memByte (s.pc.toNat % 4096) ++ s.memByte ((s.pc.toNat + 1) % 4096)) ∧
  ∀ (s : State) (x : Nibble), Memory.wf s.mem = true → 1 ≤ x.toNat →
    ∃ t, exec (.ldMemVx x) s = .next t ∧ (t.setPc s.i).fetchWord = s.reg 0 ++ s.reg 1

/-! ### The whole machine -/

/-- Every instruction answers a next state, in which only the parts `writesOf` gives it may differ: those
the summary table of 10_state.md names for it, and three more. `LOW` and `HIGH` may change the pixels
(the parameter MODE_SWITCH_CLEARS, D15, log 5); `CALL` and `RET` may change the result, `RND` the stream
counter (the model's own fields, log 10 and 8). So no instruction touches `Q`, `KEYS`, the host's
operations or the parameters; only `CALL` and `RET` touch the stack, only `DRW` and `LD Vx K` the latches
(that `CLS`, `LOW`, `HIGH` and the scrolls leave `FRAMEWAIT` alone is D27, log 27), only `LD B` and
`LD [I]` memory. -/
def Obligations.InstructionsWriteOnlyTheirParts : Prop :=
  ∀ (i : Instr) (s : State), ∃ t, exec i s = .next t ∧ Frame (writesOf i) s t

/-- Every register an instruction does not name as its destination, or write as the flag, keeps its
value (R20, R23). -/
def Obligations.InstructionsWriteOnlyTheirRegisters : Prop :=
  ∀ (i : Instr) (s : State), ∃ t, exec i s = .next t ∧ RegsKeptBut (destRegsOf i) s t

/-- The transition table of R98: the execution state after an operation that answers, from a state in
which `KEYWAIT` and `FRAMEWAIT` are not both set (`InvariantKeptByEveryStep` says none is reached); a
resolving press also writes `V[KEYREG]`. That the frame-wait latch suspends and that every draw sets it
are the spec's choices of C1 and D11 (log 15); that any press ends the key wait is D21 (log 23). -/
def Obligations.ExecutionStateFollowsTransitionTable : Prop :=
  ∀ s : State, s.loadResult = .loadOk → ¬ (s.keyWait = true ∧ s.frameWait = true) →
    (∀ p q, s.nextOp = .load p q → p.length ≤ 3584) →
    ∃ t, step s = .next t ∧ t.execState = transition (decode s.fetchWord) s.execState s.nextOp ∧
      (∀ code, s.execState = .awaitingKey → s.nextOp = .setKey code true →
        (t.reg s.keyReg).toNat = code.toNat)

/-- Every step keeps the invariant: memory stays in canonical form and the two latches are never both set
while the state is defined (R36, which marks it as derived). The canonical form is the model's own choice
(log 30); that the latches clash in no run rests on C1 and D11 (log 15). -/
def Obligations.InvariantKeptByEveryStep : Prop :=
  ∀ s t : State, Inv s → step s = .next t → Inv t

/-- The invariant holds at reset: the latches are clear (R40), and memory is in the canonical form, which is
the model's own choice (log 30). That the reset state is a load of no program is the model's too (log 6). -/
def Obligations.InvariantAtReset : Prop := Inv State.reset

/-- While the low-res display is active no instruction depends on the pixels outside the 64 by 32
rectangle: two states that differ only there go to two states that differ only there, the pixels outside
being changed in both only by a clear of the whole storage (R38, the spec's decision D13). -/
def Obligations.LowResInstructionsDoNotSeeHiddenPixels : Prop :=
  ∀ (i : Instr) (s : State) (fb' : FrameBuffer), s.hires = false →
    (∀ px py, px < 64 → py < 32 → FrameBuffer.pixel fb' px py = s.pixel px py) →
    ∃ t t', exec i s = .next t ∧ exec i { s with fb := fb' } = .next t' ∧
      t' = { t with fb := t'.fb } ∧
      (∀ px py, px < 64 → py < 32 → t'.pixel px py = t.pixel px py) ∧
      ((∀ px py, t.pixel px py = false) ∧ (∀ px py, t'.pixel px py = false) ∨
        ∀ px py, ¬ (px < 64 ∧ py < 32) →
          t.pixel px py = s.pixel px py ∧ t'.pixel px py = FrameBuffer.pixel fb' px py)

/-! ### Memory -/

/-- A write is seen by a read of the same address modulo 4096 and by no other, and keeps the canonical
form (the form is the model's own, log 30) (R51, R60). -/
def Obligations.MemoryReadAfterWrite : Prop :=
  ∀ (m : Memory) (a b : Nat) (v : Byte), Memory.wf m = true →
    Memory.read (Memory.write m a v) b = (if b % 4096 = a % 4096 then v else Memory.read m b) ∧
    Memory.wf (Memory.write m a v) = true

/-- Two canonical memories that read the same at the 4096 addresses are equal (the model's own form,
log 30) (R50). -/
def Obligations.EqualBytesMakeEqualMemories : Prop :=
  ∀ m m' : Memory, Memory.wf m = true → Memory.wf m' = true →
    (∀ a, a < 4096 → Memory.read m a = Memory.read m' a) → m = m'

/-! ### Reset and the host operations -/

/-- The state after reset: every element as R40 says for an empty program, with `Q` 0; the empty program
and `Q` are the model's choice (log 6), what is zeroed is the spec's decision D4 (log 29). The font is the
80 bytes of R242's table, in the parameter and in memory (general knowledge, D3, log 2). Three more
parameters have their defaults of R8: SCROLL_H_DIST 4 (general knowledge, D14, log 3), MODE_SWITCH_CLEARS
false (D15, log 5), VF_ORDER the prose's: flag then result for ADD, SUB, SUBN, SHR and SHL, result then
flag for OR, AND and XOR (D8, log 4). -/
def Obligations.ResetHoldsLoadValues : Prop :=
  (∀ r, State.reset.reg r = 0) ∧ State.reset.i = 0 ∧ State.reset.pc = 0x200 ∧ State.reset.sp.val = 0 ∧
  (∀ j (hj : j < 16), State.reset.stack[j] = 0) ∧ State.reset.dt = 0 ∧ State.reset.st = 0 ∧
  (∀ k, State.reset.pressed k = false) ∧ State.reset.execState = .running ∧ State.reset.keyReg = 0 ∧
  State.reset.keyWait = false ∧ State.reset.frameWait = false ∧ State.reset.hires = false ∧
  (∀ px py, State.reset.pixel px py = false) ∧ State.reset.q = 0 ∧
  State.reset.params.font.toList =
    [0xF0, 0x90, 0x90, 0x90, 0xF0] ++ [0x20, 0x60, 0x20, 0x20, 0x70] ++
    [0xF0, 0x10, 0xF0, 0x80, 0xF0] ++ [0xF0, 0x10, 0xF0, 0x10, 0xF0] ++
    [0x90, 0x90, 0xF0, 0x10, 0x10] ++ [0xF0, 0x80, 0xF0, 0x10, 0xF0] ++
    [0xF0, 0x80, 0xF0, 0x90, 0xF0] ++ [0xF0, 0x10, 0x20, 0x40, 0x40] ++
    [0xF0, 0x90, 0xF0, 0x90, 0xF0] ++ [0xF0, 0x90, 0xF0, 0x10, 0xF0] ++
    [0xF0, 0x90, 0xF0, 0x90, 0x90] ++ [0xE0, 0x90, 0xE0, 0x90, 0xE0] ++
    [0xF0, 0x80, 0x80, 0x80, 0xF0] ++ [0xE0, 0x90, 0x90, 0x90, 0xE0] ++
    [0xF0, 0x80, 0xF0, 0x80, 0xF0] ++ [0xF0, 0x80, 0xF0, 0x80, 0x80] ∧
  (∀ a, a < 80 → State.reset.memByte a = State.reset.params.font.toList.getD a 0) ∧
  (∀ a, 80 ≤ a → a < 4096 → State.reset.memByte a = 0) ∧
  State.reset.params.scrollHDist = 4 ∧ State.reset.params.modeSwitchClears = false ∧
  State.reset.params.vfAdd = .flagThenResult ∧ State.reset.params.vfSub = .flagThenResult ∧
  State.reset.params.vfShift = .flagThenResult ∧ State.reset.params.vfLogic = .resultThenFlag

/-- A `load` of at most 3584 bytes succeeds and sets every element as R240 says, for every font; the
random stream is not affected (what is zeroed is the spec's decision D4). -/
def Obligations.LoadResetsEveryElement : Prop :=
  ∀ (s : State) (program : List Byte) (quirks : Quirks) (rest : List HostOp),
    s.inputs = .load program quirks :: rest → program.length ≤ 3584 →
    ∃ t, step s = .next t ∧ t.loadResult = .loadOk ∧
      (∀ r, t.reg r = 0) ∧ t.i = 0 ∧ t.pc = 0x200 ∧ t.sp.val = 0 ∧
      (∀ j (hj : j < 16), t.stack[j] = 0) ∧ t.dt = 0 ∧ t.st = 0 ∧ (∀ k, t.pressed k = false) ∧
      t.keyWait = false ∧ t.keyReg = 0 ∧ t.frameWait = false ∧ t.hires = false ∧
      (∀ px py, t.pixel px py = false) ∧ t.q = quirks ∧
      (∀ a (ha : a < 80), t.memByte a = s.params.font[a]) ∧
      (∀ a, 80 ≤ a → a < 0x200 → t.memByte a = 0) ∧
      (∀ j (hj : j < program.length), t.memByte (0x200 + j) = program[j]) ∧
      (∀ a, 0x200 + program.length ≤ a → a < 4096 → t.memByte a = 0) ∧
      t.rndIndex = s.rndIndex ∧ t.params = s.params ∧ t.inputs = rest

/-- A `load` of more than 3584 bytes fails; then any operation but a `load` is refused, and a following
`load` of an allowed length succeeds, with the state the same `load` would have given before, but for the
count of rejected loads (that the state is unspecified is the spec's decision D5; the refusal is log 11). -/
def Obligations.RejectedLoadLeavesOnlyLoad : Prop :=
  ∀ (s : State) (program : List Byte) (quirks : Quirks) (op : HostOp) (rest : List HostOp),
    s.inputs = .load program quirks :: op :: rest → 3584 < program.length →
    ∃ t, step s = .next t ∧ t.loadResult = .loadFail ∧ t.inputs = op :: rest ∧
      ((∀ p q, op ≠ .load p q) → step t = .refused .afterRejectedLoad) ∧
      (∀ p q, op = .load p q → p.length ≤ 3584 → ∃ u u', step t = .next u ∧
        step { s with inputs := op :: rest } = .next u' ∧ u.loadResult = .loadOk ∧
        u = { u' with loadFailures := s.loadFailures + 1 })

/-- A frame tick decrements each timer unless it is 0 and clears the frame-wait latch, in every execution
state, and changes nothing else (R200). -/
def Obligations.StepFrameTicksTimers : Prop :=
  ∀ (s : State) (rest : List HostOp), s.loadResult = .loadOk → s.inputs = .stepFrame :: rest →
    ∃ t, step s = .next t ∧ t.dt.toNat = s.dt.toNat - 1 ∧ t.st.toNat = s.st.toNat - 1 ∧
      t.frameWait = false ∧ t.inputs = rest ∧
      Frame [.delayTimer, .soundTimer, .frameLatch, .inputs] s t

/-- After any number of ticks a timer reads its value less that number, at least 0, and the latch is
clear after the first (R200). -/
def Obligations.TimersSaturateAfterTicks : Prop :=
  ∀ (k : Nat) (s : State), (ticks k s).dt.toNat = s.dt.toNat - k ∧ (ticks k s).st.toNat = s.st.toNat - k ∧
    (k ≠ 0 → (ticks k s).frameWait = false) ∧
    Frame [.delayTimer, .soundTimer, .frameLatch] s (ticks k s)

/-- `setKey` records the key's state; a press while `KEYWAIT` is set also writes the code to `V[KEYREG]`
and clears the latch. Nothing else changes (R201). That any press ends the wait, also for a key already
held, is the spec's decision D21 (R202; log 23); that `KEYREG` keeps its value is R32's own inference. -/
def Obligations.SetKeyUpdatesKeyAndEndsWait : Prop :=
  ∀ (s : State) (code : Nibble) (pressed : Bool) (rest : List HostOp),
    s.loadResult = .loadOk → s.inputs = .setKey code pressed :: rest →
    ∃ t, step s = .next t ∧ t.inputs = rest ∧
      (∀ k, t.pressed k = if k.toNat = code.toNat then pressed else s.pressed k) ∧
      (pressed = true ∧ s.keyWait = true → t.keyWait = false ∧ t.keyReg = s.keyReg ∧
        (t.reg s.keyReg).toNat = code.toNat ∧ RegsKeptBut [s.keyReg] s t ∧
        Frame [.keys, .regs, .keyLatch, .inputs] s t) ∧
      (¬ (pressed = true ∧ s.keyWait = true) → Frame [.keys, .inputs] s t)

/-- `setQuirks` replaces `Q` and nothing else (R204). -/
def Obligations.SetQuirksReplacesQuirks : Prop :=
  ∀ (s : State) (quirks : Quirks) (rest : List HostOp),
    s.loadResult = .loadOk → s.inputs = .setQuirks quirks :: rest →
    step s = .next { s with q := quirks, inputs := rest }

/-- The display accessor gives the pixels of the active size, column first; the flag accessor gives
`HIRES` (R205). -/
def Obligations.DisplayAccessorShowsActivePixels : Prop :=
  ∀ s : State, s.highResolution = s.hires ∧
    s.display.length = (if s.hires then 128 else 64) ∧
    (∀ px (hx : px < s.display.length), s.display[px].length = (if s.hires then 64 else 32)) ∧
    (∀ px (hx : px < s.display.length) py (hy : py < s.display[px].length),
      s.display[px][py] = s.pixel px py)

/-- The blocking key read: however often the host steps, nothing changes; the first press then resumes
and sets the target register to the code (S9; that any press call ends the wait is the spec's decision
D21) (R182, R202). -/
def Obligations.KeyWaitLastsUntilPress : Prop :=
  ∀ (n : Nat) (s : State) (code : Nibble) (rest : List HostOp),
    s.loadResult = .loadOk → s.keyWait = true →
    s.inputs = List.replicate n .stepInstruction ++ .setKey code true :: rest →
    ∃ t u, steps n s = .next t ∧ Frame [.result, .inputs] s t ∧
      steps (n + 1) s = .next u ∧ u.pc = s.pc ∧ u.keyWait = false ∧
      (u.reg s.keyReg).toNat = code.toNat ∧ RegsKeptBut [s.keyReg] s u ∧
      Frame [.keys, .regs, .keyLatch, .result, .inputs] s u

/-- After a draw: however often the host steps, nothing changes; the next frame tick resumes, with each
timer one lower unless it is 0 (R245; that the latch suspends is the spec's choice of C1 and D11). -/
def Obligations.FrameWaitLastsUntilTick : Prop :=
  ∀ (n : Nat) (s : State) (rest : List HostOp),
    s.loadResult = .loadOk → s.frameWait = true →
    s.inputs = List.replicate n .stepInstruction ++ .stepFrame :: rest →
    ∃ t u, steps n s = .next t ∧ Frame [.result, .inputs] s t ∧
      steps (n + 1) s = .next u ∧ u.frameWait = false ∧ u.pc = s.pc ∧
      u.dt.toNat = s.dt.toNat - 1 ∧ u.st.toNat = s.st.toNat - 1 ∧
      Frame [.delayTimer, .soundTimer, .frameLatch, .result, .inputs] s u

/-! ### Control flow -/

/-- `JP nnn`, word `1nnn` (R110). -/
def Obligations.JumpSetsPc : Prop :=
  ∀ (nnn : Addr) (s : State), decode (0x1#4 ++ nnn) = .ok (.jp nnn) ∧
    ∃ t, exec (.jp nnn) s = .next t ∧ t.pc.toNat = nnn.toNat ∧ Frame [.pc] s t

/-- `JP V0 nnn`, word `Bnnn`: adds `V[0]`, or under `Q.jumpWithVx` (bit 2) the register of the top nibble
of `nnn`; the sum is stored unmasked (bit position: D17; unmasked: D6) (R113). -/
def Obligations.OffsetJumpAddsRegister : Prop :=
  ∀ (nnn : Addr) (s : State), decode (0xB#4 ++ nnn) = .ok (.jpV0 nnn) ∧
    ∃ t, exec (.jpV0 nnn) s = .next t ∧
      t.pc.toNat = nnn.toNat +
        (s.reg (if s.q.getLsbD 2 = true then BitVec.ofNat 4 (nnn.toNat / 256) else 0)).toNat ∧
      Frame [.pc] s t

/-- `CALL nnn`, word `2nnn`: pushes the auto-incremented `PC` and jumps; with 16 entries in use it
reports an overflow and changes nothing (R111). -/
def Obligations.CallPushesPc : Prop :=
  ∀ (nnn : Addr) (s : State), decode (0x2#4 ++ nnn) = .ok (.call nnn) ∧
    (∀ h : s.sp.val < 16, ∃ t, exec (.call nnn) s = .next t ∧ t.stack[s.sp.val] = s.pc ∧
      (∀ j (hj : j < 16), j ≠ s.sp.val → t.stack[j] = s.stack[j]) ∧ t.sp.val = s.sp.val + 1 ∧
      t.pc.toNat = nnn.toNat ∧ Frame [.pc, .stack, .sp] s t) ∧
    (s.sp.val = 16 → ∃ t, exec (.call nnn) s = .next t ∧ t.result = .stackOverflow ∧ Frame [.result] s t)

/-- `RET`, word `00EE`: pops into `PC`; with no entry in use it reports an underflow and changes nothing
(that the popped entry keeps its value is the spec's decision D25) (R112). -/
def Obligations.ReturnPopsPc : Prop :=
  ∀ s : State, decode 0x00EE#16 = .ok .ret ∧
    (∀ h : 0 < s.sp.val, ∃ t, exec .ret s = .next t ∧ t.sp.val = s.sp.val - 1 ∧
      t.pc = s.stack[s.sp.val - 1]'(by omega) ∧ Frame [.pc, .sp] s t) ∧
    (s.sp.val = 0 → ∃ t, exec .ret s = .next t ∧ t.result = .stackUnderflow ∧ Frame [.result] s t)

/-- Call and return are balanced: nested calls and as many returns restore `SP` and the entries below it,
and `PC` is the return address of the first call (S5) (R112). -/
def Obligations.NestedCallsReturnBalanced : Prop :=
  ∀ (calls : List (Word × Addr)) (s : State) (back : Word) (target : Addr),
    s.sp.val + (calls.length + 1) ≤ 16 →
    ∃ t u, nest ((back, target) :: calls) s = .next t ∧ t.sp.val = s.sp.val + (calls.length + 1) ∧
      unnest (calls.length + 1) t = .next u ∧ u.pc = back ∧ u.sp = s.sp ∧
      (∀ j (hj : j < 16), j < s.sp.val → u.stack[j] = s.stack[j]) ∧ Frame [.pc, .stack, .sp] s u

/-- The four register skips, words `3xkk`, `4xkk`, `5xy0`, `9xy0`: one extra `PC += 2` when the condition
holds; no register is touched (R114 to R117). -/
def Obligations.RegisterSkipsAdvancePc : Prop :=
  ∀ (x y : Nibble) (kk : Byte) (s : State),
    (decode (0x3#4 ++ x ++ kk) = .ok (.seVxKk x kk) ∧ ∃ t, exec (.seVxKk x kk) s = .next t ∧
      t.pc = (if s.reg x = kk then s.pc + 2 else s.pc) ∧ Frame [.pc] s t) ∧
    (decode (0x4#4 ++ x ++ kk) = .ok (.sneVxKk x kk) ∧ ∃ t, exec (.sneVxKk x kk) s = .next t ∧
      t.pc = (if s.reg x = kk then s.pc else s.pc + 2) ∧ Frame [.pc] s t) ∧
    (decode (0x5#4 ++ x ++ y ++ 0x0#4) = .ok (.seVxVy x y) ∧ ∃ t, exec (.seVxVy x y) s = .next t ∧
      t.pc = (if s.reg x = s.reg y then s.pc + 2 else s.pc) ∧ Frame [.pc] s t) ∧
    (decode (0x9#4 ++ x ++ y ++ 0x0#4) = .ok (.sneVxVy x y) ∧ ∃ t, exec (.sneVxVy x y) s = .next t ∧
      t.pc = (if s.reg x = s.reg y then s.pc else s.pc + 2) ∧ Frame [.pc] s t)

/-! ### Registers -/

/-- `LD Vx Vy`, word `8xy0`: copies, no flag (R130). -/
def Obligations.MoveCopiesRegister : Prop :=
  ∀ (x y : Nibble) (s : State), decode (0x8#4 ++ x ++ y ++ 0x0#4) = .ok (.ldVxVy x y) ∧
    ∃ t, exec (.ldVxVy x y) s = .next t ∧ t.reg x = s.reg y ∧ RegsKeptBut [x] s t ∧ Frame [.regs] s t

/-- `LD Vx kk`, word `6xkk`, and `ADD Vx kk`, word `7xkk`: no flag effect, the sum wraps modulo 256
(R150, R151). -/
def Obligations.ImmediateLoadAndAddLeaveFlag : Prop :=
  ∀ (x : Nibble) (kk : Byte) (s : State),
    (decode (0x6#4 ++ x ++ kk) = .ok (.ldVxKk x kk) ∧ ∃ t, exec (.ldVxKk x kk) s = .next t ∧
      t.reg x = kk ∧ RegsKeptBut [x] s t ∧ Frame [.regs] s t) ∧
    (decode (0x7#4 ++ x ++ kk) = .ok (.addVxKk x kk) ∧ ∃ t, exec (.addVxKk x kk) s = .next t ∧
      (t.reg x).toNat = ((s.reg x).toNat + kk.toNat) % 256 ∧ RegsKeptBut [x] s t ∧ Frame [.regs] s t)

/-- `RND Vx kk`, word `Cxkk`: the next byte of the random stream AND `kk`; one byte is consumed whatever
`kk` is. The byte is a free value (D10, log 8) (R152). -/
def Obligations.RandomMasksNextByte : Prop :=
  ∀ (x : Nibble) (kk : Byte) (s : State), decode (0xC#4 ++ x ++ kk) = .ok (.rnd x kk) ∧
    ∃ t, exec (.rnd x kk) s = .next t ∧ t.reg x = Config.rnd s.rndIndex &&& kk ∧
      t.rndIndex = s.rndIndex + 1 ∧ RegsKeptBut [x] s t ∧ Frame [.regs, .rndStream] s t

/-- `OR`, `AND`, `XOR`, words `8xy1`, `8xy2`, `8xy3`: bit by bit; the flag is zeroed unless
`Q.logicNoVF`. With `x = 15` the parameter VF_ORDER decides (D8, log 4) (R131 to R133). -/
def Obligations.LogicCombinesBits : Prop :=
  ∀ (x y : Nibble) (s : State),
    (decode (0x8#4 ++ x ++ y ++ 0x1#4) = .ok (.orVxVy x y) ∧ ∃ t, exec (.orVxVy x y) s = .next t ∧
      LogicWrite x (s.reg x ||| s.reg y) s t ∧ Frame [.regs] s t) ∧
    (decode (0x8#4 ++ x ++ y ++ 0x2#4) = .ok (.andVxVy x y) ∧ ∃ t, exec (.andVxVy x y) s = .next t ∧
      LogicWrite x (s.reg x &&& s.reg y) s t ∧ Frame [.regs] s t) ∧
    (decode (0x8#4 ++ x ++ y ++ 0x3#4) = .ok (.xorVxVy x y) ∧ ∃ t, exec (.xorVxVy x y) s = .next t ∧
      LogicWrite x (s.reg x ^^^ s.reg y) s t ∧ Frame [.regs] s t)

/-- `ADD Vx Vy`, word `8xy4`: the sum modulo 256, the flag 1 iff the sum exceeds 0xFF, operands read
before any write. With `x = 15` the parameter VF_ORDER decides (D8, log 4) (R134). -/
def Obligations.AddSetsCarryFlag : Prop :=
  ∀ (x y : Nibble) (s : State), decode (0x8#4 ++ x ++ y ++ 0x4#4) = .ok (.addVxVy x y) ∧
    ∃ t, exec (.addVxVy x y) s = .next t ∧
      FlaggedWrite s.params.vfAdd x (BitVec.ofNat 8 (((s.reg x).toNat + (s.reg y).toNat) % 256))
        (if (s.reg x).toNat + (s.reg y).toNat > 255 then 1 else 0) s t ∧
      Frame [.regs] s t

/-- `SUB Vx Vy`, word `8xy5`, and `SUBN Vx Vy`, word `8xy7`: the wrapping difference, the flag 1 iff no
borrow is needed. With `x = 15` the parameter VF_ORDER decides (D8, log 4) (R135, R138). -/
def Obligations.SubtractSetsNotBorrowFlag : Prop :=
  ∀ (x y : Nibble) (s : State),
    (decode (0x8#4 ++ x ++ y ++ 0x5#4) = .ok (.subVxVy x y) ∧ ∃ t, exec (.subVxVy x y) s = .next t ∧
      FlaggedWrite s.params.vfSub x
        (BitVec.ofNat 8 ((256 + (s.reg x).toNat - (s.reg y).toNat) % 256))
        (if (s.reg y).toNat ≤ (s.reg x).toNat then 1 else 0) s t ∧ Frame [.regs] s t) ∧
    (decode (0x8#4 ++ x ++ y ++ 0x7#4) = .ok (.subnVxVy x y) ∧ ∃ t, exec (.subnVxVy x y) s = .next t ∧
      FlaggedWrite s.params.vfSub x
        (BitVec.ofNat 8 ((256 + (s.reg y).toNat - (s.reg x).toNat) % 256))
        (if (s.reg x).toNat ≤ (s.reg y).toNat then 1 else 0) s t ∧ Frame [.regs] s t)

/-- `SHR Vx Vy`, word `8xy6`, and `SHL Vx Vy`, word `8xyE`: `V[y]` shifted by one, or `V[x]` under
`Q.shiftVxOnly` (bit 0), the flag the bit shifted out. With `x = 15` the parameter VF_ORDER decides (D8,
log 4) (R137, R139). -/
def Obligations.ShiftsSetFlagToBitShiftedOut : Prop :=
  ∀ (x y : Nibble) (s : State) (b : Nat),
    b = (s.reg (if s.q.getLsbD 0 = true then x else y)).toNat →
    (decode (0x8#4 ++ x ++ y ++ 0x6#4) = .ok (.shrVxVy x y) ∧ ∃ t, exec (.shrVxVy x y) s = .next t ∧
      FlaggedWrite s.params.vfShift x (BitVec.ofNat 8 (b / 2)) (BitVec.ofNat 8 (b % 2)) s t ∧
      Frame [.regs] s t) ∧
    (decode (0x8#4 ++ x ++ y ++ 0xE#4) = .ok (.shlVxVy x y) ∧ ∃ t, exec (.shlVxVy x y) s = .next t ∧
      FlaggedWrite s.params.vfShift x (BitVec.ofNat 8 (2 * b % 256)) (BitVec.ofNat 8 (b / 128)) s t ∧
      Frame [.regs] s t)

/-! ### Draw and display -/

/-- `DRW Vx Vy n`, word `Dxyn`: exactly the pixels of the active rectangle that a set sprite bit lands on
are inverted; `VF` is 1 if one of them was set, else 0; the frame-wait latch is set. A bit outside the
rectangle is clipped, or wrapped under `Q.spriteWrap` (D12); the operands are the old ones, `VF` too
(D9); every executed draw sets the latch (D11) (R160). -/
def Obligations.DrawInvertsCoveredPixels : Prop :=
  ∀ (x y n : Nibble) (s : State), decode (0xD#4 ++ x ++ y ++ n) = .ok (.drw x y n) ∧
    ∃ t, exec (.drw x y n) s = .next t ∧
      (∀ px py, s.covers x y n px py → t.pixel px py = !s.pixel px py) ∧
      (∀ px py, ¬ s.covers x y n px py → t.pixel px py = s.pixel px py) ∧
      ((∃ px py, s.covers x y n px py ∧ s.pixel px py = true) → t.reg vf = 1) ∧
      ((∀ px py, s.covers x y n px py → s.pixel px py = false) → t.reg vf = 0) ∧
      t.frameWait = true ∧ RegsKeptBut [vf] s t ∧ Frame [.regs, .pixels, .frameLatch] s t

/-- Drawing the same sprite twice at the same place, with neither anchor register `VF`, restores every
pixel; where the sprite covers a pixel that was clear before, the second draw reports a collision (S6; with
`Q.spriteWrap` set the pixels are the wrapped ones, D12) (R160). -/
def Obligations.SecondDrawUndoesFirst : Prop :=
  ∀ (x y n : Nibble) (s : State), x ≠ vf → y ≠ vf →
    ∃ t u, exec (.drw x y n) s = .next t ∧ exec (.drw x y n) t = .next u ∧
      (∀ px py, u.pixel px py = s.pixel px py) ∧
      ((∃ px py, s.covers x y n px py ∧ s.pixel px py = false) → u.reg vf = 1)

/-- `CLS`, word `00E0`: every pixel of the storage is cleared, in either mode (D13) (R161). -/
def Obligations.ClearScreenClearsAllPixels : Prop :=
  ∀ s : State, decode 0x00E0#16 = .ok .cls ∧
    ∃ t, exec .cls s = .next t ∧ (∀ px py, t.pixel px py = false) ∧ Frame [.pixels] s t

/-- `LOW`, word `00FE`, and `HIGH`, word `00FF`: set the mode flag and keep the pixels, unless the
parameter MODE_SWITCH_CLEARS says that they clear (D15, log 5) (R162, R163). That there are two opcodes,
neither inverting the flag, is the spec's general knowledge (G6, log 35); that `FRAMEWAIT` is left alone
is D27 (log 27). -/
def Obligations.ModeSwitchSetsFlag : Prop :=
  ∀ s : State, (decode 0x00FE#16 = .ok .low ∧ decode 0x00FF#16 = .ok .high) ∧
    ∃ t u, exec .low s = .next t ∧ exec .high s = .next u ∧ t.hires = false ∧ u.hires = true ∧
      (s.params.modeSwitchClears = false → Frame [.hires] s t ∧ Frame [.hires] s u) ∧
      (s.params.modeSwitchClears = true → (∀ px py, t.pixel px py = false ∧ u.pixel px py = false) ∧
        Frame [.hires, .pixels] s t ∧ Frame [.hires, .pixels] s u)

/-- `SCD n`, word `00Cn`: inside the active rectangle rows move toward larger `y` by `n`, halved rounding
down in low-res under `Q.legacySchipScroll` (bit 4; D16), vacated rows are clear; nothing else changes
(R164, R165). That down is toward larger `y` is the spec's general knowledge (G8, log 35). -/
def Obligations.ScrollDownMovesRows : Prop :=
  ∀ (n : Nibble) (s : State) (w h d : Nat),
    w = (if s.hires then 128 else 64) → h = (if s.hires then 64 else 32) →
    d = (if s.q.getLsbD 4 = true ∧ s.hires = false then n.toNat / 2 else n.toNat) →
    decode (0x0#4 ++ 0x0#4 ++ 0xC#4 ++ n) = .ok (.scd n) ∧
    ∃ t, exec (.scd n) s = .next t ∧ Frame [.pixels] s t ∧
      ∀ px py, t.pixel px py =
        if px < w ∧ py < h then (if d ≤ py then s.pixel px (py - d) else false) else s.pixel px py

/-- `SCR`, word `00FB`, and `SCL`, word `00FC`: inside the active rectangle columns move by SCROLL_H_DIST
(a parameter, D14, log 3), halved rounding down in low-res under `Q.legacySchipScroll`, vacated columns
are clear; nothing else changes (R164, R166, R167). That right is toward larger `x` and left toward
smaller `x` is the spec's general knowledge (G8, log 35). -/
def Obligations.HorizontalScrollsMoveColumns : Prop :=
  ∀ (s : State) (w h d : Nat),
    w = (if s.hires then 128 else 64) → h = (if s.hires then 64 else 32) →
    d = (if s.q.getLsbD 4 = true ∧ s.hires = false then s.params.scrollHDist / 2
      else s.params.scrollHDist) →
    (decode 0x00FB#16 = .ok .scr ∧ decode 0x00FC#16 = .ok .scl) ∧
    ∃ t u, exec .scr s = .next t ∧ exec .scl s = .next u ∧ Frame [.pixels] s t ∧ Frame [.pixels] s u ∧
      (∀ px py, t.pixel px py =
        if px < w ∧ py < h then (if d ≤ px then s.pixel (px - d) py else false) else s.pixel px py) ∧
      (∀ px py, u.pixel px py =
        if px < w ∧ py < h then (if px + d < w then s.pixel (px + d) py else false)
        else s.pixel px py)

/-! ### Keys and timers -/

/-- `SKP Vx`, word `Ex9E`, and `SKNP Vx`, word `ExA1`: the whole value of `V[x]` names the key; a value
above 15 names an absent key, which is not pressed (R180, which marks that as derived) (R180, R181). -/
def Obligations.KeySkipsFollowKeyState : Prop :=
  ∀ (x : Nibble) (s : State) (p : Prop),
    (p ↔ ∃ h : (s.reg x).toNat < 16, s.keys[(s.reg x).toNat] = true) →
    (decode (0xE#4 ++ x ++ 0x9E#8) = .ok (.skp x) ∧ ∃ t, exec (.skp x) s = .next t ∧
      (p → t.pc = s.pc + 2) ∧ (¬ p → t.pc = s.pc) ∧ Frame [.pc] s t) ∧
    (decode (0xE#4 ++ x ++ 0xA1#8) = .ok (.sknp x) ∧ ∃ t, exec (.sknp x) s = .next t ∧
      (p → t.pc = s.pc) ∧ (¬ p → t.pc = s.pc + 2) ∧ Frame [.pc] s t)

/-- `LD Vx K`, word `Fx0A`: sets the latch and the target register; the register is not yet written
(R182). -/
def Obligations.KeyReadStartsWait : Prop :=
  ∀ (x : Nibble) (s : State), decode (0xF#4 ++ x ++ 0x0A#8) = .ok (.ldVxK x) ∧
    ∃ t, exec (.ldVxK x) s = .next t ∧ t.keyWait = true ∧ t.keyReg = x ∧ Frame [.keyLatch] s t

/-- `LD Vx DT`, `LD DT Vx`, `LD ST Vx`, words `Fx07`, `Fx15`, `Fx18`: a direct copy and no side effect
(R183 to R185). -/
def Obligations.TimerTransfersCopy : Prop :=
  ∀ (x : Nibble) (s : State),
    (decode (0xF#4 ++ x ++ 0x07#8) = .ok (.ldVxDt x) ∧ ∃ t, exec (.ldVxDt x) s = .next t ∧
      t.reg x = s.dt ∧ RegsKeptBut [x] s t ∧ Frame [.regs] s t) ∧
    (decode (0xF#4 ++ x ++ 0x15#8) = .ok (.ldDtVx x) ∧ ∃ t, exec (.ldDtVx x) s = .next t ∧
      t.dt = s.reg x ∧ Frame [.delayTimer] s t) ∧
    (decode (0xF#4 ++ x ++ 0x18#8) = .ok (.ldStVx x) ∧ ∃ t, exec (.ldStVx x) s = .next t ∧
      t.st = s.reg x ∧ Frame [.soundTimer] s t)

/-! ### Index register and memory -/

/-- `LD I nnn`, word `Annn`, and `ADD I Vx`, word `Fx1E`: `I` keeps 16 bits and no flag is written (that
no flag is written is the spec's decision D29, the width D7) (R190, R191). -/
def Obligations.IndexLoadAndAddKeepSixteenBits : Prop :=
  ∀ (nnn : Addr) (x : Nibble) (s : State),
    (decode (0xA#4 ++ nnn) = .ok (.ldI nnn) ∧ ∃ t, exec (.ldI nnn) s = .next t ∧
      t.i.toNat = nnn.toNat ∧ Frame [.index] s t) ∧
    (decode (0xF#4 ++ x ++ 0x1E#8) = .ok (.addIVx x) ∧ ∃ t, exec (.addIVx x) s = .next t ∧
      t.i.toNat = (s.i.toNat + (s.reg x).toNat) % 65536 ∧ Frame [.index] s t)

/-- `LD F Vx`, word `Fx29`: `I` is five times the low nibble of `V[x]`, in either display mode
(D30), and `V[x]` is masked to it (R192). -/
def Obligations.GlyphAddressMasksSource : Prop :=
  ∀ (x : Nibble) (s : State), decode (0xF#4 ++ x ++ 0x29#8) = .ok (.ldFVx x) ∧
    ∃ t, exec (.ldFVx x) s = .next t ∧ t.i.toNat = 5 * ((s.reg x).toNat % 16) ∧
      (t.reg x).toNat = (s.reg x).toNat % 16 ∧ RegsKeptBut [x] s t ∧ Frame [.regs, .index] s t

/-- `LD B Vx`, word `Fx33`: the hundreds, tens and ones digits at `I`, `I + 1`, `I + 2`, each address
modulo 4096; every other byte is kept (R193). -/
def Obligations.BcdStoresThreeDigits : Prop :=
  ∀ (x : Nibble) (s : State), Memory.wf s.mem = true →
    decode (0xF#4 ++ x ++ 0x33#8) = .ok (.ldBVx x) ∧
    ∃ t, exec (.ldBVx x) s = .next t ∧
      (t.memByte s.i.toNat).toNat = (s.reg x).toNat / 100 ∧
      (t.memByte (s.i.toNat + 1)).toNat = (s.reg x).toNat / 10 % 10 ∧
      (t.memByte (s.i.toNat + 2)).toNat = (s.reg x).toNat % 10 ∧
      BytesKeptBut s.i.toNat 3 s t ∧ Frame [.memory] s t

/-- `LD [I] Vx`, word `Fx55`: `V[0]` to `V[x]` go to `I` on, each address modulo 4096; every other byte is
kept; `I` moves by `x + 1` under `Q.loadStoreIAdd` (bit 3; polarity D20, amount D31), else not at all
(R194). -/
def Obligations.BlockStoreWritesRegisters : Prop :=
  ∀ (x : Nibble) (s : State), Memory.wf s.mem = true →
    decode (0xF#4 ++ x ++ 0x55#8) = .ok (.ldMemVx x) ∧
    ∃ t, exec (.ldMemVx x) s = .next t ∧
      (∀ r : Nibble, r.toNat ≤ x.toNat → t.memByte (s.i.toNat + r.toNat) = s.reg r) ∧
      BytesKeptBut s.i.toNat (x.toNat + 1) s t ∧
      t.i.toNat = (if s.q.getLsbD 3 = true then (s.i.toNat + x.toNat + 1) % 65536 else s.i.toNat) ∧
      Frame [.memory, .index] s t

/-- `LD Vx [I]`, word `Fx65`: `V[0]` to `V[x]` come from `I` on, each address modulo 4096; every other
register and all of memory are kept; `I` moves by `x + 1` under `Q.loadStoreIAdd` (bit 3: D17, log 19;
polarity D20, amount D31, log 22), else not at all (R195). -/
def Obligations.BlockLoadReadsRegisters : Prop :=
  ∀ (x : Nibble) (s : State), decode (0xF#4 ++ x ++ 0x65#8) = .ok (.ldVxMem x) ∧
    ∃ t, exec (.ldVxMem x) s = .next t ∧
      (∀ r : Nibble, r.toNat ≤ x.toNat → t.reg r = s.memByte (s.i.toNat + r.toNat)) ∧
      (∀ r : Nibble, x.toNat < r.toNat → t.reg r = s.reg r) ∧
      t.i.toNat = (if s.q.getLsbD 3 = true then (s.i.toNat + x.toNat + 1) % 65536 else s.i.toNat) ∧
      Frame [.regs, .index] s t

/-- A block store followed by a block load of the same registers at the same `I` restores them: whatever
the registers hold between, they get back the stored values (R194, R195). -/
def Obligations.BlockLoadUndoesBlockStore : Prop :=
  ∀ (x : Nibble) (s : State) (v : Vector Byte 16), Memory.wf s.mem = true →
    ∃ t u, exec (.ldMemVx x) s = .next t ∧ exec (.ldVxMem x) { t with v := v, i := s.i } = .next u ∧
      ∀ r : Nibble, r.toNat ≤ x.toNat → u.reg r = s.reg r

/-! ### The end of a run -/

/-- The run is over where the word at `PC`, an address below 4096, is a jump to `PC` itself and the core is
running after a successful `load`. From there every operation but a `load` keeps it so: timers count, keys
and quirks follow the host, nothing else changes; and while the host only steps, nothing changes but the
result and the host's list (R251, which marks it as derived and leaves the predicate to the model, log 39). -/
def Obligations.RunOverLastsUntilLoad : Prop :=
  (∀ s : State, s.runOver = true ↔
    s.loadResult = .loadOk ∧ s.execState = .running ∧ s.pc.toNat < 4096 ∧
      (s.fetchWord).toNat = 0x1000 + s.pc.toNat) ∧
  ∀ (n : Nat) (s : State), s.runOver = true → (∀ op ∈ s.inputs.take n, ∀ p q, op ≠ .load p q) →
    ∃ t, steps n s = .next t ∧ t.runOver = true ∧
      Frame [.delayTimer, .soundTimer, .keys, .quirks, .result, .inputs] s t ∧
      ((∀ op ∈ s.inputs.take n, op = .stepInstruction) → Frame [.result, .inputs] s t)
end

