-- ==== Sys2Proof/Laws/Decode.lean ====
section
/-! SUPPORT. The fields of a word that is written as its fields (30_encoding.md R71): what the decoder takes out is what the encoder put in. -/

namespace Sys2Proof

/-- Bits taken from the right part of two joined parts. -/
theorem extract_low {a b : Nat} (u : BitVec a) (v : BitVec b) (start len : Nat) (h : start + len ≤ b) :
    (u ++ v).extractLsb' start len = v.extractLsb' start len := by
  apply BitVec.eq_of_getLsbD_eq
  intro i hi
  simp only [BitVec.getLsbD_extractLsb', BitVec.getLsbD_append]
  have : start + i < b := by omega
  simp [this]

/-- Bits taken from the left part of two joined parts. -/
theorem extract_high {a b : Nat} (u : BitVec a) (v : BitVec b) (start len : Nat) (h : b ≤ start) :
    (u ++ v).extractLsb' start len = u.extractLsb' (start - b) len := by
  apply BitVec.eq_of_getLsbD_eq
  intro i hi
  simp only [BitVec.getLsbD_extractLsb', BitVec.getLsbD_append]
  have : ¬ start + i < b := by omega
  simp [this, show start - b + i = start + i - b by omega]

/-- All the bits of a part. -/
theorem extract_all {a : Nat} (u : BitVec a) : u.extractLsb' 0 a = u := by
  apply BitVec.eq_of_getLsbD_eq
  intro i hi
  simp [hi]

/-! The fields of a word written as four nibbles. -/

variable (a b c d : Nibble) (kk : Byte) (nnn : Addr)

@[simp] theorem op_nibbles : Word.op (a ++ b ++ c ++ d) = a := by
  unfold Word.op
  rw [extract_high _ _ _ _ (by omega), extract_high _ _ _ _ (by omega), extract_high _ _ _ _ (by omega)]
  exact extract_all a

@[simp] theorem x_nibbles : Word.x (a ++ b ++ c ++ d) = b := by
  unfold Word.x
  rw [extract_high _ _ _ _ (by omega), extract_high _ _ _ _ (by omega), extract_low _ _ _ _ (by omega)]
  exact extract_all b

@[simp] theorem y_nibbles : Word.y (a ++ b ++ c ++ d) = c := by
  unfold Word.y
  rw [extract_high _ _ _ _ (by omega), extract_low _ _ _ _ (by omega)]
  exact extract_all c

@[simp] theorem n_nibbles : Word.n (a ++ b ++ c ++ d) = d := by
  unfold Word.n
  rw [extract_low _ _ _ _ (by omega)]
  exact extract_all d

/-! The fields of a word written as `op`, `x`, `kk`. -/

@[simp] theorem op_byte : Word.op (a ++ b ++ kk) = a := by
  unfold Word.op
  rw [extract_high _ _ _ _ (by omega), extract_high _ _ _ _ (by omega)]
  exact extract_all a

@[simp] theorem x_byte : Word.x (a ++ b ++ kk) = b := by
  unfold Word.x
  rw [extract_high _ _ _ _ (by omega), extract_low _ _ _ _ (by omega)]
  exact extract_all b

@[simp] theorem kk_byte : Word.kk (a ++ b ++ kk) = kk := by
  unfold Word.kk
  rw [extract_low _ _ _ _ (by omega)]
  exact extract_all kk

/-! The fields of a word written as `op`, `nnn`. -/

@[simp] theorem op_addr : Word.op (a ++ nnn) = a := by
  unfold Word.op
  rw [extract_high _ _ _ _ (by omega)]
  exact extract_all a

@[simp] theorem nnn_addr : Word.nnn (a ++ nnn) = nnn := by
  unfold Word.nnn
  rw [extract_low _ _ _ _ (by omega)]
  exact extract_all nnn

/-! The fields of the word `00Cn`, whose three fixed nibbles simp joins to one literal. -/

@[simp] theorem op_count : Word.op (12#12 ++ d) = 0#4 := op_nibbles 0#4 0#4 0xC#4 d

@[simp] theorem x_count : Word.x (12#12 ++ d) = 0#4 := x_nibbles 0#4 0#4 0xC#4 d

@[simp] theorem y_count : Word.y (12#12 ++ d) = 0xC#4 := y_nibbles 0#4 0#4 0xC#4 d

@[simp] theorem n_count : Word.n (12#12 ++ d) = d := n_nibbles 0#4 0#4 0xC#4 d

/-- A word is its four nibbles. -/
theorem word_nibbles (w : Word) : w = Word.op w ++ Word.x w ++ Word.y w ++ Word.n w := by
  apply BitVec.eq_of_getLsbD_eq
  intro i hi
  simp only [Word.op, Word.x, Word.y, Word.n, BitVec.getLsbD_append, BitVec.getLsbD_extractLsb']
  interval_cases i <;> simp

/-- A word is its leading nibble, `x` and `kk`. -/
theorem word_byte (w : Word) : w = Word.op w ++ Word.x w ++ Word.kk w := by
  apply BitVec.eq_of_getLsbD_eq
  intro i hi
  simp only [Word.op, Word.x, Word.kk, BitVec.getLsbD_append, BitVec.getLsbD_extractLsb']
  interval_cases i <;> simp

/-- A word is its leading nibble and `nnn`. -/
theorem word_addr (w : Word) : w = Word.op w ++ Word.nnn w := by
  apply BitVec.eq_of_getLsbD_eq
  intro i hi
  simp only [Word.op, Word.nnn, BitVec.getLsbD_append, BitVec.getLsbD_extractLsb']
  interval_cases i <;> simp

/-- A word split in its two bytes and joined again. -/
theorem word_bytes (w : Word) : w.extractLsb' 8 8 ++ w.extractLsb' 0 8 = w := by
  apply BitVec.eq_of_getLsbD_eq
  intro i hi
  simp only [BitVec.getLsbD_append, BitVec.getLsbD_extractLsb']
  interval_cases i <;> simp

end Sys2Proof
end

