-- ==== Sys2Proof/Laws/FrameBuffer.lean ====
section
/-! SUPPORT. The laws of the display storage: what a pixel reads after each operation, and that equal pixels make equal storages. -/

namespace Sys2Proof.Machine

/-- Outside the storage no pixel is set. -/
theorem FrameBuffer.pixel_outside (fb : FrameBuffer) (px py : Nat) (h : ¬ (px < 128 ∧ py < 64)) :
    FrameBuffer.pixel fb px py = false := dif_neg h

@[simp] theorem FrameBuffer.pixel_clear (px py : Nat) :
    FrameBuffer.pixel FrameBuffer.clear px py = false := by
  unfold FrameBuffer.pixel FrameBuffer.clear
  split <;> simp

/-- A pixel of a storage given pixel by pixel. -/
theorem FrameBuffer.pixel_tabulate (f : Nat → Nat → Bool) (px py : Nat) :
    FrameBuffer.pixel (FrameBuffer.tabulate f) px py = (decide (px < 128 ∧ py < 64) && f px py) := by
  unfold FrameBuffer.pixel FrameBuffer.tabulate
  split
  · rename_i h
    simp [h]
  · rename_i h
    simp only [h, decide_false, Bool.false_and]

/-- A pixel after one was written. -/
theorem FrameBuffer.pixel_setPixel (fb : FrameBuffer) (px py qx qy : Nat) (b : Bool)
    (h : px < 128 ∧ py < 64) :
    FrameBuffer.pixel (FrameBuffer.setPixel fb px py b) qx qy =
      if qx = px ∧ qy = py then b else FrameBuffer.pixel fb qx qy := by
  unfold FrameBuffer.setPixel
  rw [dif_pos h]
  unfold FrameBuffer.pixel
  by_cases hq : qx < 128 ∧ qy < 64
  · rw [dif_pos hq, dif_pos hq]
    by_cases hx : px = qx
    · subst hx
      by_cases hy : py = qy
      · subst hy; simp
      · simp [hy, Ne.symm hy]
    · simp [hx, Ne.symm hx]
  · rw [dif_neg hq, dif_neg hq, if_neg]
    rintro ⟨rfl, rfl⟩
    exact hq h

/-- Two storages with the same pixels are equal. -/
theorem FrameBuffer.ext_pixel {fb fb' : FrameBuffer}
    (h : ∀ px py, px < 128 → py < 64 → FrameBuffer.pixel fb px py = FrameBuffer.pixel fb' px py) :
    fb = fb' := by
  apply Vector.ext
  intro x hx
  apply Vector.ext
  intro y hy
  have := h x y hx hy
  unfold FrameBuffer.pixel at this
  rwa [dif_pos ⟨hx, hy⟩, dif_pos ⟨hx, hy⟩] at this

end Sys2Proof.Machine
end

