-- ==== Sys2Proof/Laws/State.lean ====
section
/-! SUPPORT. One lemma per field and per update of the state, each true by unfolding, so that no later proof unfolds a record update. -/

namespace Sys2Proof.Machine

/-! The fields after `setReg`. -/

@[simp] theorem State.setReg_v (s : State) (r : Nibble) (b : Byte) :
    (s.setReg r b).v = s.v.set r.toNat b r.isLt := rfl
@[simp] theorem State.setReg_i (s : State) (r : Nibble) (b : Byte) :
    (s.setReg r b).i = s.i := rfl
@[simp] theorem State.setReg_pc (s : State) (r : Nibble) (b : Byte) :
    (s.setReg r b).pc = s.pc := rfl
@[simp] theorem State.setReg_stack (s : State) (r : Nibble) (b : Byte) :
    (s.setReg r b).stack = s.stack := rfl
@[simp] theorem State.setReg_sp (s : State) (r : Nibble) (b : Byte) :
    (s.setReg r b).sp = s.sp := rfl
@[simp] theorem State.setReg_dt (s : State) (r : Nibble) (b : Byte) :
    (s.setReg r b).dt = s.dt := rfl
@[simp] theorem State.setReg_st (s : State) (r : Nibble) (b : Byte) :
    (s.setReg r b).st = s.st := rfl
@[simp] theorem State.setReg_keys (s : State) (r : Nibble) (b : Byte) :
    (s.setReg r b).keys = s.keys := rfl
@[simp] theorem State.setReg_keyWait (s : State) (r : Nibble) (b : Byte) :
    (s.setReg r b).keyWait = s.keyWait := rfl
@[simp] theorem State.setReg_keyReg (s : State) (r : Nibble) (b : Byte) :
    (s.setReg r b).keyReg = s.keyReg := rfl
@[simp] theorem State.setReg_frameWait (s : State) (r : Nibble) (b : Byte) :
    (s.setReg r b).frameWait = s.frameWait := rfl
@[simp] theorem State.setReg_hires (s : State) (r : Nibble) (b : Byte) :
    (s.setReg r b).hires = s.hires := rfl
@[simp] theorem State.setReg_fb (s : State) (r : Nibble) (b : Byte) :
    (s.setReg r b).fb = s.fb := rfl
@[simp] theorem State.setReg_q (s : State) (r : Nibble) (b : Byte) :
    (s.setReg r b).q = s.q := rfl
@[simp] theorem State.setReg_mem (s : State) (r : Nibble) (b : Byte) :
    (s.setReg r b).mem = s.mem := rfl
@[simp] theorem State.setReg_result (s : State) (r : Nibble) (b : Byte) :
    (s.setReg r b).result = s.result := rfl
@[simp] theorem State.setReg_loadResult (s : State) (r : Nibble) (b : Byte) :
    (s.setReg r b).loadResult = s.loadResult := rfl
@[simp] theorem State.setReg_rndIndex (s : State) (r : Nibble) (b : Byte) :
    (s.setReg r b).rndIndex = s.rndIndex := rfl
@[simp] theorem State.setReg_loadFailures (s : State) (r : Nibble) (b : Byte) :
    (s.setReg r b).loadFailures = s.loadFailures := rfl
@[simp] theorem State.setReg_inputs (s : State) (r : Nibble) (b : Byte) :
    (s.setReg r b).inputs = s.inputs := rfl
@[simp] theorem State.setReg_params (s : State) (r : Nibble) (b : Byte) :
    (s.setReg r b).params = s.params := rfl
@[simp] theorem State.setReg_memByte (s : State) (r : Nibble) (b : Byte) (a' : Nat) :
    (s.setReg r b).memByte a' = s.memByte a' := rfl
@[simp] theorem State.setReg_pixel (s : State) (r : Nibble) (b : Byte) (px py : Nat) :
    (s.setReg r b).pixel px py = s.pixel px py := rfl
@[simp] theorem State.setReg_width (s : State) (r : Nibble) (b : Byte)  :
    (s.setReg r b).width = s.width := rfl
@[simp] theorem State.setReg_height (s : State) (r : Nibble) (b : Byte)  :
    (s.setReg r b).height = s.height := rfl

/-! The fields after `setI`. -/

@[simp] theorem State.setI_v (s : State) (w : Word) :
    (s.setI w).v = s.v := rfl
@[simp] theorem State.setI_i (s : State) (w : Word) :
    (s.setI w).i = w := rfl
@[simp] theorem State.setI_pc (s : State) (w : Word) :
    (s.setI w).pc = s.pc := rfl
@[simp] theorem State.setI_stack (s : State) (w : Word) :
    (s.setI w).stack = s.stack := rfl
@[simp] theorem State.setI_sp (s : State) (w : Word) :
    (s.setI w).sp = s.sp := rfl
@[simp] theorem State.setI_dt (s : State) (w : Word) :
    (s.setI w).dt = s.dt := rfl
@[simp] theorem State.setI_st (s : State) (w : Word) :
    (s.setI w).st = s.st := rfl
@[simp] theorem State.setI_keys (s : State) (w : Word) :
    (s.setI w).keys = s.keys := rfl
@[simp] theorem State.setI_keyWait (s : State) (w : Word) :
    (s.setI w).keyWait = s.keyWait := rfl
@[simp] theorem State.setI_keyReg (s : State) (w : Word) :
    (s.setI w).keyReg = s.keyReg := rfl
@[simp] theorem State.setI_frameWait (s : State) (w : Word) :
    (s.setI w).frameWait = s.frameWait := rfl
@[simp] theorem State.setI_hires (s : State) (w : Word) :
    (s.setI w).hires = s.hires := rfl
@[simp] theorem State.setI_fb (s : State) (w : Word) :
    (s.setI w).fb = s.fb := rfl
@[simp] theorem State.setI_q (s : State) (w : Word) :
    (s.setI w).q = s.q := rfl
@[simp] theorem State.setI_mem (s : State) (w : Word) :
    (s.setI w).mem = s.mem := rfl
@[simp] theorem State.setI_result (s : State) (w : Word) :
    (s.setI w).result = s.result := rfl
@[simp] theorem State.setI_loadResult (s : State) (w : Word) :
    (s.setI w).loadResult = s.loadResult := rfl
@[simp] theorem State.setI_rndIndex (s : State) (w : Word) :
    (s.setI w).rndIndex = s.rndIndex := rfl
@[simp] theorem State.setI_loadFailures (s : State) (w : Word) :
    (s.setI w).loadFailures = s.loadFailures := rfl
@[simp] theorem State.setI_inputs (s : State) (w : Word) :
    (s.setI w).inputs = s.inputs := rfl
@[simp] theorem State.setI_params (s : State) (w : Word) :
    (s.setI w).params = s.params := rfl
@[simp] theorem State.setI_reg (s : State) (w : Word) (r' : Nibble) :
    (s.setI w).reg r' = s.reg r' := rfl
@[simp] theorem State.setI_memByte (s : State) (w : Word) (a' : Nat) :
    (s.setI w).memByte a' = s.memByte a' := rfl
@[simp] theorem State.setI_pixel (s : State) (w : Word) (px py : Nat) :
    (s.setI w).pixel px py = s.pixel px py := rfl
@[simp] theorem State.setI_width (s : State) (w : Word)  :
    (s.setI w).width = s.width := rfl
@[simp] theorem State.setI_height (s : State) (w : Word)  :
    (s.setI w).height = s.height := rfl

/-! The fields after `setPc`. -/

@[simp] theorem State.setPc_v (s : State) (w : Word) :
    (s.setPc w).v = s.v := rfl
@[simp] theorem State.setPc_i (s : State) (w : Word) :
    (s.setPc w).i = s.i := rfl
@[simp] theorem State.setPc_pc (s : State) (w : Word) :
    (s.setPc w).pc = w := rfl
@[simp] theorem State.setPc_stack (s : State) (w : Word) :
    (s.setPc w).stack = s.stack := rfl
@[simp] theorem State.setPc_sp (s : State) (w : Word) :
    (s.setPc w).sp = s.sp := rfl
@[simp] theorem State.setPc_dt (s : State) (w : Word) :
    (s.setPc w).dt = s.dt := rfl
@[simp] theorem State.setPc_st (s : State) (w : Word) :
    (s.setPc w).st = s.st := rfl
@[simp] theorem State.setPc_keys (s : State) (w : Word) :
    (s.setPc w).keys = s.keys := rfl
@[simp] theorem State.setPc_keyWait (s : State) (w : Word) :
    (s.setPc w).keyWait = s.keyWait := rfl
@[simp] theorem State.setPc_keyReg (s : State) (w : Word) :
    (s.setPc w).keyReg = s.keyReg := rfl
@[simp] theorem State.setPc_frameWait (s : State) (w : Word) :
    (s.setPc w).frameWait = s.frameWait := rfl
@[simp] theorem State.setPc_hires (s : State) (w : Word) :
    (s.setPc w).hires = s.hires := rfl
@[simp] theorem State.setPc_fb (s : State) (w : Word) :
    (s.setPc w).fb = s.fb := rfl
@[simp] theorem State.setPc_q (s : State) (w : Word) :
    (s.setPc w).q = s.q := rfl
@[simp] theorem State.setPc_mem (s : State) (w : Word) :
    (s.setPc w).mem = s.mem := rfl
@[simp] theorem State.setPc_result (s : State) (w : Word) :
    (s.setPc w).result = s.result := rfl
@[simp] theorem State.setPc_loadResult (s : State) (w : Word) :
    (s.setPc w).loadResult = s.loadResult := rfl
@[simp] theorem State.setPc_rndIndex (s : State) (w : Word) :
    (s.setPc w).rndIndex = s.rndIndex := rfl
@[simp] theorem State.setPc_loadFailures (s : State) (w : Word) :
    (s.setPc w).loadFailures = s.loadFailures := rfl
@[simp] theorem State.setPc_inputs (s : State) (w : Word) :
    (s.setPc w).inputs = s.inputs := rfl
@[simp] theorem State.setPc_params (s : State) (w : Word) :
    (s.setPc w).params = s.params := rfl
@[simp] theorem State.setPc_reg (s : State) (w : Word) (r' : Nibble) :
    (s.setPc w).reg r' = s.reg r' := rfl
@[simp] theorem State.setPc_memByte (s : State) (w : Word) (a' : Nat) :
    (s.setPc w).memByte a' = s.memByte a' := rfl
@[simp] theorem State.setPc_pixel (s : State) (w : Word) (px py : Nat) :
    (s.setPc w).pixel px py = s.pixel px py := rfl
@[simp] theorem State.setPc_width (s : State) (w : Word)  :
    (s.setPc w).width = s.width := rfl
@[simp] theorem State.setPc_height (s : State) (w : Word)  :
    (s.setPc w).height = s.height := rfl

/-! The fields after `setDt`. -/

@[simp] theorem State.setDt_v (s : State) (b : Byte) :
    (s.setDt b).v = s.v := rfl
@[simp] theorem State.setDt_i (s : State) (b : Byte) :
    (s.setDt b).i = s.i := rfl
@[simp] theorem State.setDt_pc (s : State) (b : Byte) :
    (s.setDt b).pc = s.pc := rfl
@[simp] theorem State.setDt_stack (s : State) (b : Byte) :
    (s.setDt b).stack = s.stack := rfl
@[simp] theorem State.setDt_sp (s : State) (b : Byte) :
    (s.setDt b).sp = s.sp := rfl
@[simp] theorem State.setDt_dt (s : State) (b : Byte) :
    (s.setDt b).dt = b := rfl
@[simp] theorem State.setDt_st (s : State) (b : Byte) :
    (s.setDt b).st = s.st := rfl
@[simp] theorem State.setDt_keys (s : State) (b : Byte) :
    (s.setDt b).keys = s.keys := rfl
@[simp] theorem State.setDt_keyWait (s : State) (b : Byte) :
    (s.setDt b).keyWait = s.keyWait := rfl
@[simp] theorem State.setDt_keyReg (s : State) (b : Byte) :
    (s.setDt b).keyReg = s.keyReg := rfl
@[simp] theorem State.setDt_frameWait (s : State) (b : Byte) :
    (s.setDt b).frameWait = s.frameWait := rfl
@[simp] theorem State.setDt_hires (s : State) (b : Byte) :
    (s.setDt b).hires = s.hires := rfl
@[simp] theorem State.setDt_fb (s : State) (b : Byte) :
    (s.setDt b).fb = s.fb := rfl
@[simp] theorem State.setDt_q (s : State) (b : Byte) :
    (s.setDt b).q = s.q := rfl
@[simp] theorem State.setDt_mem (s : State) (b : Byte) :
    (s.setDt b).mem = s.mem := rfl
@[simp] theorem State.setDt_result (s : State) (b : Byte) :
    (s.setDt b).result = s.result := rfl
@[simp] theorem State.setDt_loadResult (s : State) (b : Byte) :
    (s.setDt b).loadResult = s.loadResult := rfl
@[simp] theorem State.setDt_rndIndex (s : State) (b : Byte) :
    (s.setDt b).rndIndex = s.rndIndex := rfl
@[simp] theorem State.setDt_loadFailures (s : State) (b : Byte) :
    (s.setDt b).loadFailures = s.loadFailures := rfl
@[simp] theorem State.setDt_inputs (s : State) (b : Byte) :
    (s.setDt b).inputs = s.inputs := rfl
@[simp] theorem State.setDt_params (s : State) (b : Byte) :
    (s.setDt b).params = s.params := rfl
@[simp] theorem State.setDt_reg (s : State) (b : Byte) (r' : Nibble) :
    (s.setDt b).reg r' = s.reg r' := rfl
@[simp] theorem State.setDt_memByte (s : State) (b : Byte) (a' : Nat) :
    (s.setDt b).memByte a' = s.memByte a' := rfl
@[simp] theorem State.setDt_pixel (s : State) (b : Byte) (px py : Nat) :
    (s.setDt b).pixel px py = s.pixel px py := rfl
@[simp] theorem State.setDt_width (s : State) (b : Byte)  :
    (s.setDt b).width = s.width := rfl
@[simp] theorem State.setDt_height (s : State) (b : Byte)  :
    (s.setDt b).height = s.height := rfl

/-! The fields after `setSt`. -/

@[simp] theorem State.setSt_v (s : State) (b : Byte) :
    (s.setSt b).v = s.v := rfl
@[simp] theorem State.setSt_i (s : State) (b : Byte) :
    (s.setSt b).i = s.i := rfl
@[simp] theorem State.setSt_pc (s : State) (b : Byte) :
    (s.setSt b).pc = s.pc := rfl
@[simp] theorem State.setSt_stack (s : State) (b : Byte) :
    (s.setSt b).stack = s.stack := rfl
@[simp] theorem State.setSt_sp (s : State) (b : Byte) :
    (s.setSt b).sp = s.sp := rfl
@[simp] theorem State.setSt_dt (s : State) (b : Byte) :
    (s.setSt b).dt = s.dt := rfl
@[simp] theorem State.setSt_st (s : State) (b : Byte) :
    (s.setSt b).st = b := rfl
@[simp] theorem State.setSt_keys (s : State) (b : Byte) :
    (s.setSt b).keys = s.keys := rfl
@[simp] theorem State.setSt_keyWait (s : State) (b : Byte) :
    (s.setSt b).keyWait = s.keyWait := rfl
@[simp] theorem State.setSt_keyReg (s : State) (b : Byte) :
    (s.setSt b).keyReg = s.keyReg := rfl
@[simp] theorem State.setSt_frameWait (s : State) (b : Byte) :
    (s.setSt b).frameWait = s.frameWait := rfl
@[simp] theorem State.setSt_hires (s : State) (b : Byte) :
    (s.setSt b).hires = s.hires := rfl
@[simp] theorem State.setSt_fb (s : State) (b : Byte) :
    (s.setSt b).fb = s.fb := rfl
@[simp] theorem State.setSt_q (s : State) (b : Byte) :
    (s.setSt b).q = s.q := rfl
@[simp] theorem State.setSt_mem (s : State) (b : Byte) :
    (s.setSt b).mem = s.mem := rfl
@[simp] theorem State.setSt_result (s : State) (b : Byte) :
    (s.setSt b).result = s.result := rfl
@[simp] theorem State.setSt_loadResult (s : State) (b : Byte) :
    (s.setSt b).loadResult = s.loadResult := rfl
@[simp] theorem State.setSt_rndIndex (s : State) (b : Byte) :
    (s.setSt b).rndIndex = s.rndIndex := rfl
@[simp] theorem State.setSt_loadFailures (s : State) (b : Byte) :
    (s.setSt b).loadFailures = s.loadFailures := rfl
@[simp] theorem State.setSt_inputs (s : State) (b : Byte) :
    (s.setSt b).inputs = s.inputs := rfl
@[simp] theorem State.setSt_params (s : State) (b : Byte) :
    (s.setSt b).params = s.params := rfl
@[simp] theorem State.setSt_reg (s : State) (b : Byte) (r' : Nibble) :
    (s.setSt b).reg r' = s.reg r' := rfl
@[simp] theorem State.setSt_memByte (s : State) (b : Byte) (a' : Nat) :
    (s.setSt b).memByte a' = s.memByte a' := rfl
@[simp] theorem State.setSt_pixel (s : State) (b : Byte) (px py : Nat) :
    (s.setSt b).pixel px py = s.pixel px py := rfl
@[simp] theorem State.setSt_width (s : State) (b : Byte)  :
    (s.setSt b).width = s.width := rfl
@[simp] theorem State.setSt_height (s : State) (b : Byte)  :
    (s.setSt b).height = s.height := rfl

/-! The fields after `storeBytes`. -/

@[simp] theorem State.storeBytes_v (s : State) (a : Nat) (bs : List Byte) :
    (s.storeBytes a bs).v = s.v := rfl
@[simp] theorem State.storeBytes_i (s : State) (a : Nat) (bs : List Byte) :
    (s.storeBytes a bs).i = s.i := rfl
@[simp] theorem State.storeBytes_pc (s : State) (a : Nat) (bs : List Byte) :
    (s.storeBytes a bs).pc = s.pc := rfl
@[simp] theorem State.storeBytes_stack (s : State) (a : Nat) (bs : List Byte) :
    (s.storeBytes a bs).stack = s.stack := rfl
@[simp] theorem State.storeBytes_sp (s : State) (a : Nat) (bs : List Byte) :
    (s.storeBytes a bs).sp = s.sp := rfl
@[simp] theorem State.storeBytes_dt (s : State) (a : Nat) (bs : List Byte) :
    (s.storeBytes a bs).dt = s.dt := rfl
@[simp] theorem State.storeBytes_st (s : State) (a : Nat) (bs : List Byte) :
    (s.storeBytes a bs).st = s.st := rfl
@[simp] theorem State.storeBytes_keys (s : State) (a : Nat) (bs : List Byte) :
    (s.storeBytes a bs).keys = s.keys := rfl
@[simp] theorem State.storeBytes_keyWait (s : State) (a : Nat) (bs : List Byte) :
    (s.storeBytes a bs).keyWait = s.keyWait := rfl
@[simp] theorem State.storeBytes_keyReg (s : State) (a : Nat) (bs : List Byte) :
    (s.storeBytes a bs).keyReg = s.keyReg := rfl
@[simp] theorem State.storeBytes_frameWait (s : State) (a : Nat) (bs : List Byte) :
    (s.storeBytes a bs).frameWait = s.frameWait := rfl
@[simp] theorem State.storeBytes_hires (s : State) (a : Nat) (bs : List Byte) :
    (s.storeBytes a bs).hires = s.hires := rfl
@[simp] theorem State.storeBytes_fb (s : State) (a : Nat) (bs : List Byte) :
    (s.storeBytes a bs).fb = s.fb := rfl
@[simp] theorem State.storeBytes_q (s : State) (a : Nat) (bs : List Byte) :
    (s.storeBytes a bs).q = s.q := rfl
@[simp] theorem State.storeBytes_mem (s : State) (a : Nat) (bs : List Byte) :
    (s.storeBytes a bs).mem = Memory.writeBytes s.mem a bs := rfl
@[simp] theorem State.storeBytes_result (s : State) (a : Nat) (bs : List Byte) :
    (s.storeBytes a bs).result = s.result := rfl
@[simp] theorem State.storeBytes_loadResult (s : State) (a : Nat) (bs : List Byte) :
    (s.storeBytes a bs).loadResult = s.loadResult := rfl
@[simp] theorem State.storeBytes_rndIndex (s : State) (a : Nat) (bs : List Byte) :
    (s.storeBytes a bs).rndIndex = s.rndIndex := rfl
@[simp] theorem State.storeBytes_loadFailures (s : State) (a : Nat) (bs : List Byte) :
    (s.storeBytes a bs).loadFailures = s.loadFailures := rfl
@[simp] theorem State.storeBytes_inputs (s : State) (a : Nat) (bs : List Byte) :
    (s.storeBytes a bs).inputs = s.inputs := rfl
@[simp] theorem State.storeBytes_params (s : State) (a : Nat) (bs : List Byte) :
    (s.storeBytes a bs).params = s.params := rfl
@[simp] theorem State.storeBytes_reg (s : State) (a : Nat) (bs : List Byte) (r' : Nibble) :
    (s.storeBytes a bs).reg r' = s.reg r' := rfl
@[simp] theorem State.storeBytes_pixel (s : State) (a : Nat) (bs : List Byte) (px py : Nat) :
    (s.storeBytes a bs).pixel px py = s.pixel px py := rfl
@[simp] theorem State.storeBytes_width (s : State) (a : Nat) (bs : List Byte)  :
    (s.storeBytes a bs).width = s.width := rfl
@[simp] theorem State.storeBytes_height (s : State) (a : Nat) (bs : List Byte)  :
    (s.storeBytes a bs).height = s.height := rfl

/-! The fields after `setFb`. -/

@[simp] theorem State.setFb_v (s : State) (fb : FrameBuffer) :
    (s.setFb fb).v = s.v := rfl
@[simp] theorem State.setFb_i (s : State) (fb : FrameBuffer) :
    (s.setFb fb).i = s.i := rfl
@[simp] theorem State.setFb_pc (s : State) (fb : FrameBuffer) :
    (s.setFb fb).pc = s.pc := rfl
@[simp] theorem State.setFb_stack (s : State) (fb : FrameBuffer) :
    (s.setFb fb).stack = s.stack := rfl
@[simp] theorem State.setFb_sp (s : State) (fb : FrameBuffer) :
    (s.setFb fb).sp = s.sp := rfl
@[simp] theorem State.setFb_dt (s : State) (fb : FrameBuffer) :
    (s.setFb fb).dt = s.dt := rfl
@[simp] theorem State.setFb_st (s : State) (fb : FrameBuffer) :
    (s.setFb fb).st = s.st := rfl
@[simp] theorem State.setFb_keys (s : State) (fb : FrameBuffer) :
    (s.setFb fb).keys = s.keys := rfl
@[simp] theorem State.setFb_keyWait (s : State) (fb : FrameBuffer) :
    (s.setFb fb).keyWait = s.keyWait := rfl
@[simp] theorem State.setFb_keyReg (s : State) (fb : FrameBuffer) :
    (s.setFb fb).keyReg = s.keyReg := rfl
@[simp] theorem State.setFb_frameWait (s : State) (fb : FrameBuffer) :
    (s.setFb fb).frameWait = s.frameWait := rfl
@[simp] theorem State.setFb_hires (s : State) (fb : FrameBuffer) :
    (s.setFb fb).hires = s.hires := rfl
@[simp] theorem State.setFb_fb (s : State) (fb : FrameBuffer) :
    (s.setFb fb).fb = fb := rfl
@[simp] theorem State.setFb_q (s : State) (fb : FrameBuffer) :
    (s.setFb fb).q = s.q := rfl
@[simp] theorem State.setFb_mem (s : State) (fb : FrameBuffer) :
    (s.setFb fb).mem = s.mem := rfl
@[simp] theorem State.setFb_result (s : State) (fb : FrameBuffer) :
    (s.setFb fb).result = s.result := rfl
@[simp] theorem State.setFb_loadResult (s : State) (fb : FrameBuffer) :
    (s.setFb fb).loadResult = s.loadResult := rfl
@[simp] theorem State.setFb_rndIndex (s : State) (fb : FrameBuffer) :
    (s.setFb fb).rndIndex = s.rndIndex := rfl
@[simp] theorem State.setFb_loadFailures (s : State) (fb : FrameBuffer) :
    (s.setFb fb).loadFailures = s.loadFailures := rfl
@[simp] theorem State.setFb_inputs (s : State) (fb : FrameBuffer) :
    (s.setFb fb).inputs = s.inputs := rfl
@[simp] theorem State.setFb_params (s : State) (fb : FrameBuffer) :
    (s.setFb fb).params = s.params := rfl
@[simp] theorem State.setFb_reg (s : State) (fb : FrameBuffer) (r' : Nibble) :
    (s.setFb fb).reg r' = s.reg r' := rfl
@[simp] theorem State.setFb_memByte (s : State) (fb : FrameBuffer) (a' : Nat) :
    (s.setFb fb).memByte a' = s.memByte a' := rfl
@[simp] theorem State.setFb_width (s : State) (fb : FrameBuffer)  :
    (s.setFb fb).width = s.width := rfl
@[simp] theorem State.setFb_height (s : State) (fb : FrameBuffer)  :
    (s.setFb fb).height = s.height := rfl

/-! The fields after `setHires`. -/

@[simp] theorem State.setHires_v (s : State) (b : Bool) :
    (s.setHires b).v = s.v := rfl
@[simp] theorem State.setHires_i (s : State) (b : Bool) :
    (s.setHires b).i = s.i := rfl
@[simp] theorem State.setHires_pc (s : State) (b : Bool) :
    (s.setHires b).pc = s.pc := rfl
@[simp] theorem State.setHires_stack (s : State) (b : Bool) :
    (s.setHires b).stack = s.stack := rfl
@[simp] theorem State.setHires_sp (s : State) (b : Bool) :
    (s.setHires b).sp = s.sp := rfl
@[simp] theorem State.setHires_dt (s : State) (b : Bool) :
    (s.setHires b).dt = s.dt := rfl
@[simp] theorem State.setHires_st (s : State) (b : Bool) :
    (s.setHires b).st = s.st := rfl
@[simp] theorem State.setHires_keys (s : State) (b : Bool) :
    (s.setHires b).keys = s.keys := rfl
@[simp] theorem State.setHires_keyWait (s : State) (b : Bool) :
    (s.setHires b).keyWait = s.keyWait := rfl
@[simp] theorem State.setHires_keyReg (s : State) (b : Bool) :
    (s.setHires b).keyReg = s.keyReg := rfl
@[simp] theorem State.setHires_frameWait (s : State) (b : Bool) :
    (s.setHires b).frameWait = s.frameWait := rfl
@[simp] theorem State.setHires_hires (s : State) (b : Bool) :
    (s.setHires b).hires = b := rfl
@[simp] theorem State.setHires_fb (s : State) (b : Bool) :
    (s.setHires b).fb = s.fb := rfl
@[simp] theorem State.setHires_q (s : State) (b : Bool) :
    (s.setHires b).q = s.q := rfl
@[simp] theorem State.setHires_mem (s : State) (b : Bool) :
    (s.setHires b).mem = s.mem := rfl
@[simp] theorem State.setHires_result (s : State) (b : Bool) :
    (s.setHires b).result = s.result := rfl
@[simp] theorem State.setHires_loadResult (s : State) (b : Bool) :
    (s.setHires b).loadResult = s.loadResult := rfl
@[simp] theorem State.setHires_rndIndex (s : State) (b : Bool) :
    (s.setHires b).rndIndex = s.rndIndex := rfl
@[simp] theorem State.setHires_loadFailures (s : State) (b : Bool) :
    (s.setHires b).loadFailures = s.loadFailures := rfl
@[simp] theorem State.setHires_inputs (s : State) (b : Bool) :
    (s.setHires b).inputs = s.inputs := rfl
@[simp] theorem State.setHires_params (s : State) (b : Bool) :
    (s.setHires b).params = s.params := rfl
@[simp] theorem State.setHires_reg (s : State) (b : Bool) (r' : Nibble) :
    (s.setHires b).reg r' = s.reg r' := rfl
@[simp] theorem State.setHires_memByte (s : State) (b : Bool) (a' : Nat) :
    (s.setHires b).memByte a' = s.memByte a' := rfl
@[simp] theorem State.setHires_pixel (s : State) (b : Bool) (px py : Nat) :
    (s.setHires b).pixel px py = s.pixel px py := rfl

/-! The fields after `setFrameWait`. -/

@[simp] theorem State.setFrameWait_v (s : State) (b : Bool) :
    (s.setFrameWait b).v = s.v := rfl
@[simp] theorem State.setFrameWait_i (s : State) (b : Bool) :
    (s.setFrameWait b).i = s.i := rfl
@[simp] theorem State.setFrameWait_pc (s : State) (b : Bool) :
    (s.setFrameWait b).pc = s.pc := rfl
@[simp] theorem State.setFrameWait_stack (s : State) (b : Bool) :
    (s.setFrameWait b).stack = s.stack := rfl
@[simp] theorem State.setFrameWait_sp (s : State) (b : Bool) :
    (s.setFrameWait b).sp = s.sp := rfl
@[simp] theorem State.setFrameWait_dt (s : State) (b : Bool) :
    (s.setFrameWait b).dt = s.dt := rfl
@[simp] theorem State.setFrameWait_st (s : State) (b : Bool) :
    (s.setFrameWait b).st = s.st := rfl
@[simp] theorem State.setFrameWait_keys (s : State) (b : Bool) :
    (s.setFrameWait b).keys = s.keys := rfl
@[simp] theorem State.setFrameWait_keyWait (s : State) (b : Bool) :
    (s.setFrameWait b).keyWait = s.keyWait := rfl
@[simp] theorem State.setFrameWait_keyReg (s : State) (b : Bool) :
    (s.setFrameWait b).keyReg = s.keyReg := rfl
@[simp] theorem State.setFrameWait_frameWait (s : State) (b : Bool) :
    (s.setFrameWait b).frameWait = b := rfl
@[simp] theorem State.setFrameWait_hires (s : State) (b : Bool) :
    (s.setFrameWait b).hires = s.hires := rfl
@[simp] theorem State.setFrameWait_fb (s : State) (b : Bool) :
    (s.setFrameWait b).fb = s.fb := rfl
@[simp] theorem State.setFrameWait_q (s : State) (b : Bool) :
    (s.setFrameWait b).q = s.q := rfl
@[simp] theorem State.setFrameWait_mem (s : State) (b : Bool) :
    (s.setFrameWait b).mem = s.mem := rfl
@[simp] theorem State.setFrameWait_result (s : State) (b : Bool) :
    (s.setFrameWait b).result = s.result := rfl
@[simp] theorem State.setFrameWait_loadResult (s : State) (b : Bool) :
    (s.setFrameWait b).loadResult = s.loadResult := rfl
@[simp] theorem State.setFrameWait_rndIndex (s : State) (b : Bool) :
    (s.setFrameWait b).rndIndex = s.rndIndex := rfl
@[simp] theorem State.setFrameWait_loadFailures (s : State) (b : Bool) :
    (s.setFrameWait b).loadFailures = s.loadFailures := rfl
@[simp] theorem State.setFrameWait_inputs (s : State) (b : Bool) :
    (s.setFrameWait b).inputs = s.inputs := rfl
@[simp] theorem State.setFrameWait_params (s : State) (b : Bool) :
    (s.setFrameWait b).params = s.params := rfl
@[simp] theorem State.setFrameWait_reg (s : State) (b : Bool) (r' : Nibble) :
    (s.setFrameWait b).reg r' = s.reg r' := rfl
@[simp] theorem State.setFrameWait_memByte (s : State) (b : Bool) (a' : Nat) :
    (s.setFrameWait b).memByte a' = s.memByte a' := rfl
@[simp] theorem State.setFrameWait_pixel (s : State) (b : Bool) (px py : Nat) :
    (s.setFrameWait b).pixel px py = s.pixel px py := rfl
@[simp] theorem State.setFrameWait_width (s : State) (b : Bool)  :
    (s.setFrameWait b).width = s.width := rfl
@[simp] theorem State.setFrameWait_height (s : State) (b : Bool)  :
    (s.setFrameWait b).height = s.height := rfl

/-! The fields after `awaitKey`. -/

@[simp] theorem State.awaitKey_v (s : State) (r : Nibble) :
    (s.awaitKey r).v = s.v := rfl
@[simp] theorem State.awaitKey_i (s : State) (r : Nibble) :
    (s.awaitKey r).i = s.i := rfl
@[simp] theorem State.awaitKey_pc (s : State) (r : Nibble) :
    (s.awaitKey r).pc = s.pc := rfl
@[simp] theorem State.awaitKey_stack (s : State) (r : Nibble) :
    (s.awaitKey r).stack = s.stack := rfl
@[simp] theorem State.awaitKey_sp (s : State) (r : Nibble) :
    (s.awaitKey r).sp = s.sp := rfl
@[simp] theorem State.awaitKey_dt (s : State) (r : Nibble) :
    (s.awaitKey r).dt = s.dt := rfl
@[simp] theorem State.awaitKey_st (s : State) (r : Nibble) :
    (s.awaitKey r).st = s.st := rfl
@[simp] theorem State.awaitKey_keys (s : State) (r : Nibble) :
    (s.awaitKey r).keys = s.keys := rfl
@[simp] theorem State.awaitKey_keyWait (s : State) (r : Nibble) :
    (s.awaitKey r).keyWait = true := rfl
@[simp] theorem State.awaitKey_keyReg (s : State) (r : Nibble) :
    (s.awaitKey r).keyReg = r := rfl
@[simp] theorem State.awaitKey_frameWait (s : State) (r : Nibble) :
    (s.awaitKey r).frameWait = s.frameWait := rfl
@[simp] theorem State.awaitKey_hires (s : State) (r : Nibble) :
    (s.awaitKey r).hires = s.hires := rfl
@[simp] theorem State.awaitKey_fb (s : State) (r : Nibble) :
    (s.awaitKey r).fb = s.fb := rfl
@[simp] theorem State.awaitKey_q (s : State) (r : Nibble) :
    (s.awaitKey r).q = s.q := rfl
@[simp] theorem State.awaitKey_mem (s : State) (r : Nibble) :
    (s.awaitKey r).mem = s.mem := rfl
@[simp] theorem State.awaitKey_result (s : State) (r : Nibble) :
    (s.awaitKey r).result = s.result := rfl
@[simp] theorem State.awaitKey_loadResult (s : State) (r : Nibble) :
    (s.awaitKey r).loadResult = s.loadResult := rfl
@[simp] theorem State.awaitKey_rndIndex (s : State) (r : Nibble) :
    (s.awaitKey r).rndIndex = s.rndIndex := rfl
@[simp] theorem State.awaitKey_loadFailures (s : State) (r : Nibble) :
    (s.awaitKey r).loadFailures = s.loadFailures := rfl
@[simp] theorem State.awaitKey_inputs (s : State) (r : Nibble) :
    (s.awaitKey r).inputs = s.inputs := rfl
@[simp] theorem State.awaitKey_params (s : State) (r : Nibble) :
    (s.awaitKey r).params = s.params := rfl
@[simp] theorem State.awaitKey_reg (s : State) (r : Nibble) (r' : Nibble) :
    (s.awaitKey r).reg r' = s.reg r' := rfl
@[simp] theorem State.awaitKey_memByte (s : State) (r : Nibble) (a' : Nat) :
    (s.awaitKey r).memByte a' = s.memByte a' := rfl
@[simp] theorem State.awaitKey_pixel (s : State) (r : Nibble) (px py : Nat) :
    (s.awaitKey r).pixel px py = s.pixel px py := rfl
@[simp] theorem State.awaitKey_width (s : State) (r : Nibble)  :
    (s.awaitKey r).width = s.width := rfl
@[simp] theorem State.awaitKey_height (s : State) (r : Nibble)  :
    (s.awaitKey r).height = s.height := rfl

/-! The fields after `endKeyWait`. -/

@[simp] theorem State.endKeyWait_v (s : State) :
    (s.endKeyWait).v = s.v := rfl
@[simp] theorem State.endKeyWait_i (s : State) :
    (s.endKeyWait).i = s.i := rfl
@[simp] theorem State.endKeyWait_pc (s : State) :
    (s.endKeyWait).pc = s.pc := rfl
@[simp] theorem State.endKeyWait_stack (s : State) :
    (s.endKeyWait).stack = s.stack := rfl
@[simp] theorem State.endKeyWait_sp (s : State) :
    (s.endKeyWait).sp = s.sp := rfl
@[simp] theorem State.endKeyWait_dt (s : State) :
    (s.endKeyWait).dt = s.dt := rfl
@[simp] theorem State.endKeyWait_st (s : State) :
    (s.endKeyWait).st = s.st := rfl
@[simp] theorem State.endKeyWait_keys (s : State) :
    (s.endKeyWait).keys = s.keys := rfl
@[simp] theorem State.endKeyWait_keyWait (s : State) :
    (s.endKeyWait).keyWait = false := rfl
@[simp] theorem State.endKeyWait_keyReg (s : State) :
    (s.endKeyWait).keyReg = s.keyReg := rfl
@[simp] theorem State.endKeyWait_frameWait (s : State) :
    (s.endKeyWait).frameWait = s.frameWait := rfl
@[simp] theorem State.endKeyWait_hires (s : State) :
    (s.endKeyWait).hires = s.hires := rfl
@[simp] theorem State.endKeyWait_fb (s : State) :
    (s.endKeyWait).fb = s.fb := rfl
@[simp] theorem State.endKeyWait_q (s : State) :
    (s.endKeyWait).q = s.q := rfl
@[simp] theorem State.endKeyWait_mem (s : State) :
    (s.endKeyWait).mem = s.mem := rfl
@[simp] theorem State.endKeyWait_result (s : State) :
    (s.endKeyWait).result = s.result := rfl
@[simp] theorem State.endKeyWait_loadResult (s : State) :
    (s.endKeyWait).loadResult = s.loadResult := rfl
@[simp] theorem State.endKeyWait_rndIndex (s : State) :
    (s.endKeyWait).rndIndex = s.rndIndex := rfl
@[simp] theorem State.endKeyWait_loadFailures (s : State) :
    (s.endKeyWait).loadFailures = s.loadFailures := rfl
@[simp] theorem State.endKeyWait_inputs (s : State) :
    (s.endKeyWait).inputs = s.inputs := rfl
@[simp] theorem State.endKeyWait_params (s : State) :
    (s.endKeyWait).params = s.params := rfl
@[simp] theorem State.endKeyWait_reg (s : State) (r' : Nibble) :
    (s.endKeyWait).reg r' = s.reg r' := rfl
@[simp] theorem State.endKeyWait_memByte (s : State) (a' : Nat) :
    (s.endKeyWait).memByte a' = s.memByte a' := rfl
@[simp] theorem State.endKeyWait_pixel (s : State) (px py : Nat) :
    (s.endKeyWait).pixel px py = s.pixel px py := rfl
@[simp] theorem State.endKeyWait_width (s : State)  :
    (s.endKeyWait).width = s.width := rfl
@[simp] theorem State.endKeyWait_height (s : State)  :
    (s.endKeyWait).height = s.height := rfl

/-! The fields after `setKeyBit`. -/

@[simp] theorem State.setKeyBit_v (s : State) (k : Nibble) (b : Bool) :
    (s.setKeyBit k b).v = s.v := rfl
@[simp] theorem State.setKeyBit_i (s : State) (k : Nibble) (b : Bool) :
    (s.setKeyBit k b).i = s.i := rfl
@[simp] theorem State.setKeyBit_pc (s : State) (k : Nibble) (b : Bool) :
    (s.setKeyBit k b).pc = s.pc := rfl
@[simp] theorem State.setKeyBit_stack (s : State) (k : Nibble) (b : Bool) :
    (s.setKeyBit k b).stack = s.stack := rfl
@[simp] theorem State.setKeyBit_sp (s : State) (k : Nibble) (b : Bool) :
    (s.setKeyBit k b).sp = s.sp := rfl
@[simp] theorem State.setKeyBit_dt (s : State) (k : Nibble) (b : Bool) :
    (s.setKeyBit k b).dt = s.dt := rfl
@[simp] theorem State.setKeyBit_st (s : State) (k : Nibble) (b : Bool) :
    (s.setKeyBit k b).st = s.st := rfl
@[simp] theorem State.setKeyBit_keys (s : State) (k : Nibble) (b : Bool) :
    (s.setKeyBit k b).keys = s.keys.set k.toNat b k.isLt := rfl
@[simp] theorem State.setKeyBit_keyWait (s : State) (k : Nibble) (b : Bool) :
    (s.setKeyBit k b).keyWait = s.keyWait := rfl
@[simp] theorem State.setKeyBit_keyReg (s : State) (k : Nibble) (b : Bool) :
    (s.setKeyBit k b).keyReg = s.keyReg := rfl
@[simp] theorem State.setKeyBit_frameWait (s : State) (k : Nibble) (b : Bool) :
    (s.setKeyBit k b).frameWait = s.frameWait := rfl
@[simp] theorem State.setKeyBit_hires (s : State) (k : Nibble) (b : Bool) :
    (s.setKeyBit k b).hires = s.hires := rfl
@[simp] theorem State.setKeyBit_fb (s : State) (k : Nibble) (b : Bool) :
    (s.setKeyBit k b).fb = s.fb := rfl
@[simp] theorem State.setKeyBit_q (s : State) (k : Nibble) (b : Bool) :
    (s.setKeyBit k b).q = s.q := rfl
@[simp] theorem State.setKeyBit_mem (s : State) (k : Nibble) (b : Bool) :
    (s.setKeyBit k b).mem = s.mem := rfl
@[simp] theorem State.setKeyBit_result (s : State) (k : Nibble) (b : Bool) :
    (s.setKeyBit k b).result = s.result := rfl
@[simp] theorem State.setKeyBit_loadResult (s : State) (k : Nibble) (b : Bool) :
    (s.setKeyBit k b).loadResult = s.loadResult := rfl
@[simp] theorem State.setKeyBit_rndIndex (s : State) (k : Nibble) (b : Bool) :
    (s.setKeyBit k b).rndIndex = s.rndIndex := rfl
@[simp] theorem State.setKeyBit_loadFailures (s : State) (k : Nibble) (b : Bool) :
    (s.setKeyBit k b).loadFailures = s.loadFailures := rfl
@[simp] theorem State.setKeyBit_inputs (s : State) (k : Nibble) (b : Bool) :
    (s.setKeyBit k b).inputs = s.inputs := rfl
@[simp] theorem State.setKeyBit_params (s : State) (k : Nibble) (b : Bool) :
    (s.setKeyBit k b).params = s.params := rfl
@[simp] theorem State.setKeyBit_reg (s : State) (k : Nibble) (b : Bool) (r' : Nibble) :
    (s.setKeyBit k b).reg r' = s.reg r' := rfl
@[simp] theorem State.setKeyBit_memByte (s : State) (k : Nibble) (b : Bool) (a' : Nat) :
    (s.setKeyBit k b).memByte a' = s.memByte a' := rfl
@[simp] theorem State.setKeyBit_pixel (s : State) (k : Nibble) (b : Bool) (px py : Nat) :
    (s.setKeyBit k b).pixel px py = s.pixel px py := rfl
@[simp] theorem State.setKeyBit_width (s : State) (k : Nibble) (b : Bool)  :
    (s.setKeyBit k b).width = s.width := rfl
@[simp] theorem State.setKeyBit_height (s : State) (k : Nibble) (b : Bool)  :
    (s.setKeyBit k b).height = s.height := rfl

/-! The fields after `setResult`. -/

@[simp] theorem State.setResult_v (s : State) (r : StepResult) :
    (s.setResult r).v = s.v := rfl
@[simp] theorem State.setResult_i (s : State) (r : StepResult) :
    (s.setResult r).i = s.i := rfl
@[simp] theorem State.setResult_pc (s : State) (r : StepResult) :
    (s.setResult r).pc = s.pc := rfl
@[simp] theorem State.setResult_stack (s : State) (r : StepResult) :
    (s.setResult r).stack = s.stack := rfl
@[simp] theorem State.setResult_sp (s : State) (r : StepResult) :
    (s.setResult r).sp = s.sp := rfl
@[simp] theorem State.setResult_dt (s : State) (r : StepResult) :
    (s.setResult r).dt = s.dt := rfl
@[simp] theorem State.setResult_st (s : State) (r : StepResult) :
    (s.setResult r).st = s.st := rfl
@[simp] theorem State.setResult_keys (s : State) (r : StepResult) :
    (s.setResult r).keys = s.keys := rfl
@[simp] theorem State.setResult_keyWait (s : State) (r : StepResult) :
    (s.setResult r).keyWait = s.keyWait := rfl
@[simp] theorem State.setResult_keyReg (s : State) (r : StepResult) :
    (s.setResult r).keyReg = s.keyReg := rfl
@[simp] theorem State.setResult_frameWait (s : State) (r : StepResult) :
    (s.setResult r).frameWait = s.frameWait := rfl
@[simp] theorem State.setResult_hires (s : State) (r : StepResult) :
    (s.setResult r).hires = s.hires := rfl
@[simp] theorem State.setResult_fb (s : State) (r : StepResult) :
    (s.setResult r).fb = s.fb := rfl
@[simp] theorem State.setResult_q (s : State) (r : StepResult) :
    (s.setResult r).q = s.q := rfl
@[simp] theorem State.setResult_mem (s : State) (r : StepResult) :
    (s.setResult r).mem = s.mem := rfl
@[simp] theorem State.setResult_result (s : State) (r : StepResult) :
    (s.setResult r).result = r := rfl
@[simp] theorem State.setResult_loadResult (s : State) (r : StepResult) :
    (s.setResult r).loadResult = s.loadResult := rfl
@[simp] theorem State.setResult_rndIndex (s : State) (r : StepResult) :
    (s.setResult r).rndIndex = s.rndIndex := rfl
@[simp] theorem State.setResult_loadFailures (s : State) (r : StepResult) :
    (s.setResult r).loadFailures = s.loadFailures := rfl
@[simp] theorem State.setResult_inputs (s : State) (r : StepResult) :
    (s.setResult r).inputs = s.inputs := rfl
@[simp] theorem State.setResult_params (s : State) (r : StepResult) :
    (s.setResult r).params = s.params := rfl
@[simp] theorem State.setResult_reg (s : State) (r : StepResult) (r' : Nibble) :
    (s.setResult r).reg r' = s.reg r' := rfl
@[simp] theorem State.setResult_memByte (s : State) (r : StepResult) (a' : Nat) :
    (s.setResult r).memByte a' = s.memByte a' := rfl
@[simp] theorem State.setResult_pixel (s : State) (r : StepResult) (px py : Nat) :
    (s.setResult r).pixel px py = s.pixel px py := rfl
@[simp] theorem State.setResult_width (s : State) (r : StepResult)  :
    (s.setResult r).width = s.width := rfl
@[simp] theorem State.setResult_height (s : State) (r : StepResult)  :
    (s.setResult r).height = s.height := rfl

/-! The fields after `push`. -/

@[simp] theorem State.push_v (s : State) (w : Word) (h : s.sp.val < 16) :
    (s.push w h).v = s.v := rfl
@[simp] theorem State.push_i (s : State) (w : Word) (h : s.sp.val < 16) :
    (s.push w h).i = s.i := rfl
@[simp] theorem State.push_pc (s : State) (w : Word) (h : s.sp.val < 16) :
    (s.push w h).pc = s.pc := rfl
@[simp] theorem State.push_stack (s : State) (w : Word) (h : s.sp.val < 16) :
    (s.push w h).stack = s.stack.set s.sp.val w := rfl
@[simp] theorem State.push_sp (s : State) (w : Word) (h : s.sp.val < 16) :
    (s.push w h).sp = ⟨s.sp.val + 1, by omega⟩ := rfl
@[simp] theorem State.push_dt (s : State) (w : Word) (h : s.sp.val < 16) :
    (s.push w h).dt = s.dt := rfl
@[simp] theorem State.push_st (s : State) (w : Word) (h : s.sp.val < 16) :
    (s.push w h).st = s.st := rfl
@[simp] theorem State.push_keys (s : State) (w : Word) (h : s.sp.val < 16) :
    (s.push w h).keys = s.keys := rfl
@[simp] theorem State.push_keyWait (s : State) (w : Word) (h : s.sp.val < 16) :
    (s.push w h).keyWait = s.keyWait := rfl
@[simp] theorem State.push_keyReg (s : State) (w : Word) (h : s.sp.val < 16) :
    (s.push w h).keyReg = s.keyReg := rfl
@[simp] theorem State.push_frameWait (s : State) (w : Word) (h : s.sp.val < 16) :
    (s.push w h).frameWait = s.frameWait := rfl
@[simp] theorem State.push_hires (s : State) (w : Word) (h : s.sp.val < 16) :
    (s.push w h).hires = s.hires := rfl
@[simp] theorem State.push_fb (s : State) (w : Word) (h : s.sp.val < 16) :
    (s.push w h).fb = s.fb := rfl
@[simp] theorem State.push_q (s : State) (w : Word) (h : s.sp.val < 16) :
    (s.push w h).q = s.q := rfl
@[simp] theorem State.push_mem (s : State) (w : Word) (h : s.sp.val < 16) :
    (s.push w h).mem = s.mem := rfl
@[simp] theorem State.push_result (s : State) (w : Word) (h : s.sp.val < 16) :
    (s.push w h).result = s.result := rfl
@[simp] theorem State.push_loadResult (s : State) (w : Word) (h : s.sp.val < 16) :
    (s.push w h).loadResult = s.loadResult := rfl
@[simp] theorem State.push_rndIndex (s : State) (w : Word) (h : s.sp.val < 16) :
    (s.push w h).rndIndex = s.rndIndex := rfl
@[simp] theorem State.push_loadFailures (s : State) (w : Word) (h : s.sp.val < 16) :
    (s.push w h).loadFailures = s.loadFailures := rfl
@[simp] theorem State.push_inputs (s : State) (w : Word) (h : s.sp.val < 16) :
    (s.push w h).inputs = s.inputs := rfl
@[simp] theorem State.push_params (s : State) (w : Word) (h : s.sp.val < 16) :
    (s.push w h).params = s.params := rfl
@[simp] theorem State.push_reg (s : State) (w : Word) (h : s.sp.val < 16) (r' : Nibble) :
    (s.push w h).reg r' = s.reg r' := rfl
@[simp] theorem State.push_memByte (s : State) (w : Word) (h : s.sp.val < 16) (a' : Nat) :
    (s.push w h).memByte a' = s.memByte a' := rfl
@[simp] theorem State.push_pixel (s : State) (w : Word) (h : s.sp.val < 16) (px py : Nat) :
    (s.push w h).pixel px py = s.pixel px py := rfl
@[simp] theorem State.push_width (s : State) (w : Word) (h : s.sp.val < 16)  :
    (s.push w h).width = s.width := rfl
@[simp] theorem State.push_height (s : State) (w : Word) (h : s.sp.val < 16)  :
    (s.push w h).height = s.height := rfl

/-! The fields after `drop`. -/

@[simp] theorem State.drop_v (s : State) :
    (s.drop).v = s.v := rfl
@[simp] theorem State.drop_i (s : State) :
    (s.drop).i = s.i := rfl
@[simp] theorem State.drop_pc (s : State) :
    (s.drop).pc = s.pc := rfl
@[simp] theorem State.drop_stack (s : State) :
    (s.drop).stack = s.stack := rfl
@[simp] theorem State.drop_sp (s : State) :
    (s.drop).sp = ⟨s.sp.val - 1, by omega⟩ := rfl
@[simp] theorem State.drop_dt (s : State) :
    (s.drop).dt = s.dt := rfl
@[simp] theorem State.drop_st (s : State) :
    (s.drop).st = s.st := rfl
@[simp] theorem State.drop_keys (s : State) :
    (s.drop).keys = s.keys := rfl
@[simp] theorem State.drop_keyWait (s : State) :
    (s.drop).keyWait = s.keyWait := rfl
@[simp] theorem State.drop_keyReg (s : State) :
    (s.drop).keyReg = s.keyReg := rfl
@[simp] theorem State.drop_frameWait (s : State) :
    (s.drop).frameWait = s.frameWait := rfl
@[simp] theorem State.drop_hires (s : State) :
    (s.drop).hires = s.hires := rfl
@[simp] theorem State.drop_fb (s : State) :
    (s.drop).fb = s.fb := rfl
@[simp] theorem State.drop_q (s : State) :
    (s.drop).q = s.q := rfl
@[simp] theorem State.drop_mem (s : State) :
    (s.drop).mem = s.mem := rfl
@[simp] theorem State.drop_result (s : State) :
    (s.drop).result = s.result := rfl
@[simp] theorem State.drop_loadResult (s : State) :
    (s.drop).loadResult = s.loadResult := rfl
@[simp] theorem State.drop_rndIndex (s : State) :
    (s.drop).rndIndex = s.rndIndex := rfl
@[simp] theorem State.drop_loadFailures (s : State) :
    (s.drop).loadFailures = s.loadFailures := rfl
@[simp] theorem State.drop_inputs (s : State) :
    (s.drop).inputs = s.inputs := rfl
@[simp] theorem State.drop_params (s : State) :
    (s.drop).params = s.params := rfl
@[simp] theorem State.drop_reg (s : State) (r' : Nibble) :
    (s.drop).reg r' = s.reg r' := rfl
@[simp] theorem State.drop_memByte (s : State) (a' : Nat) :
    (s.drop).memByte a' = s.memByte a' := rfl
@[simp] theorem State.drop_pixel (s : State) (px py : Nat) :
    (s.drop).pixel px py = s.pixel px py := rfl
@[simp] theorem State.drop_width (s : State)  :
    (s.drop).width = s.width := rfl
@[simp] theorem State.drop_height (s : State)  :
    (s.drop).height = s.height := rfl

/-! The fields after `consumeRnd`. -/

@[simp] theorem State.consumeRnd_v (s : State) :
    (s.consumeRnd).v = s.v := rfl
@[simp] theorem State.consumeRnd_i (s : State) :
    (s.consumeRnd).i = s.i := rfl
@[simp] theorem State.consumeRnd_pc (s : State) :
    (s.consumeRnd).pc = s.pc := rfl
@[simp] theorem State.consumeRnd_stack (s : State) :
    (s.consumeRnd).stack = s.stack := rfl
@[simp] theorem State.consumeRnd_sp (s : State) :
    (s.consumeRnd).sp = s.sp := rfl
@[simp] theorem State.consumeRnd_dt (s : State) :
    (s.consumeRnd).dt = s.dt := rfl
@[simp] theorem State.consumeRnd_st (s : State) :
    (s.consumeRnd).st = s.st := rfl
@[simp] theorem State.consumeRnd_keys (s : State) :
    (s.consumeRnd).keys = s.keys := rfl
@[simp] theorem State.consumeRnd_keyWait (s : State) :
    (s.consumeRnd).keyWait = s.keyWait := rfl
@[simp] theorem State.consumeRnd_keyReg (s : State) :
    (s.consumeRnd).keyReg = s.keyReg := rfl
@[simp] theorem State.consumeRnd_frameWait (s : State) :
    (s.consumeRnd).frameWait = s.frameWait := rfl
@[simp] theorem State.consumeRnd_hires (s : State) :
    (s.consumeRnd).hires = s.hires := rfl
@[simp] theorem State.consumeRnd_fb (s : State) :
    (s.consumeRnd).fb = s.fb := rfl
@[simp] theorem State.consumeRnd_q (s : State) :
    (s.consumeRnd).q = s.q := rfl
@[simp] theorem State.consumeRnd_mem (s : State) :
    (s.consumeRnd).mem = s.mem := rfl
@[simp] theorem State.consumeRnd_result (s : State) :
    (s.consumeRnd).result = s.result := rfl
@[simp] theorem State.consumeRnd_loadResult (s : State) :
    (s.consumeRnd).loadResult = s.loadResult := rfl
@[simp] theorem State.consumeRnd_rndIndex (s : State) :
    (s.consumeRnd).rndIndex = s.rndIndex + 1 := rfl
@[simp] theorem State.consumeRnd_loadFailures (s : State) :
    (s.consumeRnd).loadFailures = s.loadFailures := rfl
@[simp] theorem State.consumeRnd_inputs (s : State) :
    (s.consumeRnd).inputs = s.inputs := rfl
@[simp] theorem State.consumeRnd_params (s : State) :
    (s.consumeRnd).params = s.params := rfl
@[simp] theorem State.consumeRnd_reg (s : State) (r' : Nibble) :
    (s.consumeRnd).reg r' = s.reg r' := rfl
@[simp] theorem State.consumeRnd_memByte (s : State) (a' : Nat) :
    (s.consumeRnd).memByte a' = s.memByte a' := rfl
@[simp] theorem State.consumeRnd_pixel (s : State) (px py : Nat) :
    (s.consumeRnd).pixel px py = s.pixel px py := rfl
@[simp] theorem State.consumeRnd_width (s : State)  :
    (s.consumeRnd).width = s.width := rfl
@[simp] theorem State.consumeRnd_height (s : State)  :
    (s.consumeRnd).height = s.height := rfl

/-- Advancing is a write of `PC`. -/
@[simp] theorem State.advance_eq (s : State) : s.advance = s.setPc (s.pc + 2) := rfl

/-- The state a body starts from differs in `PC` and the result only. -/
@[simp] theorem State.fetched_eq (s : State) : s.fetched = (s.setPc (s.pc + 2)).setResult .ok := rfl

/-- A raised failure is a next state that differs in the result only. -/
@[simp] theorem State.raise_eq (s : State) (r : StepResult) : s.raise r = .next (s.setResult r) := rfl

@[simp] theorem State.setHires_width (s : State) (b : Bool) :
    (s.setHires b).width = if b then 128 else 64 := rfl
@[simp] theorem State.setHires_height (s : State) (b : Bool) :
    (s.setHires b).height = if b then 64 else 32 := rfl
@[simp] theorem State.setFb_pixel (s : State) (fb : FrameBuffer) (px py : Nat) :
    (s.setFb fb).pixel px py = FrameBuffer.pixel fb px py := rfl
@[simp] theorem State.storeBytes_memByte (s : State) (a : Nat) (bs : List Byte) (a' : Nat) :
    (s.storeBytes a bs).memByte a' = Memory.read (Memory.writeBytes s.mem a bs) a' := rfl
@[simp] theorem State.top_push (s : State) (w : Word) (h : s.sp.val < 16)
    (h' : 0 < (s.push w h).sp.val) : (s.push w h).top h' = w := by
  simp [State.top, State.push]

/-- Reading a register after writing one. -/
theorem State.reg_setReg (s : State) (x r : Nibble) (b : Byte) :
    (s.setReg x b).reg r = if r = x then b else s.reg r := by
  unfold State.setReg State.reg
  rw [Vector.getElem_set]
  by_cases h : r = x
  · simp [h]
  · have : x.toNat ≠ r.toNat := fun e => h (BitVec.eq_of_toNat_eq e.symm)
    simp [h, this]

@[simp] theorem State.reg_setReg_self (s : State) (x : Nibble) (b : Byte) : (s.setReg x b).reg x = b := by
  simp [State.reg_setReg]

theorem State.reg_setReg_of_ne (s : State) (x r : Nibble) (b : Byte) (h : r ≠ x) :
    (s.setReg x b).reg r = s.reg r := by
  simp [State.reg_setReg, h]

theorem State.width_le (s : State) : s.width ≤ 128 := by
  unfold State.width; split <;> omega

theorem State.height_le (s : State) : s.height ≤ 64 := by
  unfold State.height; split <;> omega

/-- The active sizes exceed a sprite's (44_draw_display.md R160 case (e)). -/
theorem State.width_ge (s : State) : 64 ≤ s.width := by
  unfold State.width; split <;> omega

theorem State.height_ge (s : State) : 32 ≤ s.height := by
  unfold State.height; split <;> omega

end Sys2Proof.Machine
end

