-- ==== Sys2Proof/Laws/Display.lean ====
section
/-! SUPPORT. What drawing a sprite does, said once: from a starting display, the pixels of a set are inverted and the flag tells whether one of them was set. -/

namespace Sys2Proof.Machine

/-- The display and flag `acc` result from `fb` by inverting exactly the pixels of `C`. -/
structure Drawn (fb : FrameBuffer) (C : Nat → Nat → Prop) (acc : FrameBuffer × Bool) : Prop where
  covered : ∀ px py, C px py → FrameBuffer.pixel acc.1 px py = !FrameBuffer.pixel fb px py
  other : ∀ px py, ¬ C px py → FrameBuffer.pixel acc.1 px py = FrameBuffer.pixel fb px py
  collision : acc.2 = true ↔ ∃ px py, C px py ∧ FrameBuffer.pixel fb px py = true

/-- Nothing drawn yet. -/
theorem Drawn.start (fb : FrameBuffer) : Drawn fb (fun _ _ => False) (fb, false) :=
  ⟨fun _ _ h => h.elim, fun _ _ _ => rfl, by simp⟩

/-- The set matters only up to equivalence. -/
theorem Drawn.congr {fb : FrameBuffer} {C C' : Nat → Nat → Prop} {acc : FrameBuffer × Bool}
    (h : Drawn fb C acc) (e : ∀ px py, C px py ↔ C' px py) : Drawn fb C' acc := by
  have : C = C' := funext fun px => funext fun py => propext (e px py)
  exact this ▸ h

/-- The pixel a sprite bit at `(px, py)` lands on, if it is not clipped. -/
def Lands (w h : Nat) (wrap : Bool) (px py qx qy : Nat) : Prop :=
  qx < w ∧ qy < h ∧ spriteCoord wrap w px = qx ∧ spriteCoord wrap h py = qy

/-- Plotting one sprite bit inverts the pixel it lands on. -/
theorem Drawn.plot {fb : FrameBuffer} {C : Nat → Nat → Prop} {acc : FrameBuffer × Bool} {w h : Nat}
    {wrap : Bool} {px py : Nat} (hw : w ≤ 128) (hh : h ≤ 64) (d : Drawn fb C acc)
    (fresh : ∀ qx qy, Lands w h wrap px py qx qy → ¬ C qx qy) :
    Drawn fb (fun qx qy => C qx qy ∨ Lands w h wrap px py qx qy) (Machine.plot w h wrap px py acc) := by
  unfold Machine.plot
  by_cases hin : spriteCoord wrap w px < w ∧ spriteCoord wrap h py < h
  · rw [if_pos hin]
    have hn : ¬ C (spriteCoord wrap w px) (spriteCoord wrap h py) := fresh _ _ ⟨hin.1, hin.2, rfl, rfl⟩
    have hstore : spriteCoord wrap w px < 128 ∧ spriteCoord wrap h py < 64 := by omega
    refine ⟨?_, ?_, ?_⟩
    · intro qx qy hc
      rw [FrameBuffer.pixel_setPixel _ _ _ _ _ _ hstore]
      rcases hc with hc | ⟨_, _, rfl, rfl⟩
      · rw [if_neg (by rintro ⟨rfl, rfl⟩; exact hn hc), d.covered _ _ hc]
      · rw [if_pos ⟨rfl, rfl⟩, d.other _ _ hn]
    · intro qx qy hc
      rw [FrameBuffer.pixel_setPixel _ _ _ _ _ _ hstore, if_neg, d.other _ _ (fun h => hc (Or.inl h))]
      rintro ⟨rfl, rfl⟩
      exact hc (Or.inr ⟨hin.1, hin.2, rfl, rfl⟩)
    · rw [Bool.or_eq_true, d.collision, d.other _ _ hn]
      constructor
      · rintro (⟨qx, qy, hc, hp⟩ | hp)
        · exact ⟨qx, qy, Or.inl hc, hp⟩
        · exact ⟨_, _, Or.inr ⟨hin.1, hin.2, rfl, rfl⟩, hp⟩
      · rintro ⟨qx, qy, hc | ⟨_, _, rfl, rfl⟩, hp⟩
        · exact Or.inl ⟨qx, qy, hc, hp⟩
        · exact Or.inr hp
  · rw [if_neg hin]
    refine d.congr fun qx qy => ⟨Or.inl, ?_⟩
    rintro (hc | ⟨h1, h2, rfl, rfl⟩)
    · exact hc
    · exact absurd ⟨h1, h2⟩ hin

/-- Two columns less than the size apart land on different coordinates. -/
theorem spriteCoord_inj {wrap : Bool} {size base j k : Nat} (hj : j < size) (hk : k < size)
    (h : spriteCoord wrap size (base + j) = spriteCoord wrap size (base + k)) : j = k := by
  unfold spriteCoord at h
  cases wrap with
  | false => simpa using h
  | true =>
    simp only [if_true] at h
    have := Nat.ModEq.add_left_cancel' base (show (base + j) ≡ (base + k) [MOD size] from h)
    rwa [Nat.ModEq, Nat.mod_eq_of_lt hj, Nat.mod_eq_of_lt hk] at this

/-- Drawing a row inverts the pixels its set bits land on. -/
theorem Drawn.row {fb : FrameBuffer} {C : Nat → Nat → Prop} {acc : FrameBuffer × Bool} {w h : Nat}
    {wrap : Bool} {b : Byte} {x0 y : Nat} (hw : w ≤ 128) (hw8 : 8 ≤ w) (hh : h ≤ 64) (d : Drawn fb C acc)
    (fresh : ∀ c qx qy, Lands w h wrap (x0 + c) y qx qy → ¬ C qx qy) :
    Drawn fb (fun qx qy => C qx qy ∨ ∃ c, c < 8 ∧ b.getLsbD (7 - c) = true ∧
      Lands w h wrap (x0 + c) y qx qy) (drawRow w h wrap b x0 y acc) := by
  have main : ∀ k, k ≤ 8 → Drawn fb (fun qx qy => C qx qy ∨ ∃ c, c < k ∧ b.getLsbD (7 - c) = true ∧
      Lands w h wrap (x0 + c) y qx qy)
      ((List.range k).foldl
        (fun acc c => if b.getLsbD (7 - c) then Machine.plot w h wrap (x0 + c) y acc else acc) acc) := by
    intro k
    induction k with
    | zero => intro _; simpa using d
    | succ k ih =>
      intro hk
      rw [List.range_succ, List.foldl_append, List.foldl_cons, List.foldl_nil]
      have ih := ih (by omega)
      by_cases hb : b.getLsbD (7 - k) = true
      · rw [if_pos hb]
        refine (ih.plot hw hh ?_).congr ?_
        · rintro qx qy hl (hc | ⟨c, hc, _, hl'⟩)
          · exact fresh k qx qy hl hc
          · have := spriteCoord_inj (show c < w by omega) (show k < w by omega)
              (hl'.2.2.1.trans hl.2.2.1.symm)
            omega
        · intro qx qy
          constructor
          · rintro ((hc | ⟨c, hc, h1, h2⟩) | hl)
            · exact Or.inl hc
            · exact Or.inr ⟨c, by omega, h1, h2⟩
            · exact Or.inr ⟨k, by omega, hb, hl⟩
          · rintro (hc | ⟨c, hc, h1, h2⟩)
            · exact Or.inl (Or.inl hc)
            · rcases Nat.lt_succ_iff_lt_or_eq.mp hc with hc | rfl
              · exact Or.inl (Or.inr ⟨c, hc, h1, h2⟩)
              · exact Or.inr h2
      · rw [if_neg hb]
        refine ih.congr fun qx qy => ?_
        constructor
        · rintro (hc | ⟨c, hc, h1, h2⟩)
          · exact Or.inl hc
          · exact Or.inr ⟨c, by omega, h1, h2⟩
        · rintro (hc | ⟨c, hc, h1, h2⟩)
          · exact Or.inl hc
          · rcases Nat.lt_succ_iff_lt_or_eq.mp hc with hc | rfl
            · exact Or.inr ⟨c, hc, h1, h2⟩
            · exact absurd h1 hb
  exact main 8 (Nat.le_refl 8)

/-- What `drawSprite` does: it inverts exactly the pixels the sprite covers, and its flag is set exactly
when a covered pixel was set before (44_draw_display.md R160). -/
theorem State.drawSprite_drawn (s : State) (x y n : Nibble) :
    Drawn s.fb (s.covers x y n) (s.drawSprite x y n) := by
  have main : ∀ k, k ≤ 15 → Drawn s.fb (fun qx qy => ∃ r c, r < k ∧ c < 8 ∧ s.spriteBit r c = true ∧
      Lands s.width s.height s.spriteWrap ((s.reg x).toNat % s.width + c)
        ((s.reg y).toNat % s.height + r) qx qy)
      ((List.range k).foldl
        (fun acc r => drawRow s.width s.height s.spriteWrap (s.memByte (s.i.toNat + r))
          ((s.reg x).toNat % s.width) ((s.reg y).toNat % s.height + r) acc) (s.fb, false)) := by
    intro k
    induction k with
    | zero =>
      intro _
      refine (Drawn.start s.fb).congr fun qx qy => ⟨fun h => h.elim, ?_⟩
      rintro ⟨r, c, hr, _⟩
      exact absurd hr (by omega)
    | succ k ih =>
      intro hk
      rw [List.range_succ, List.foldl_append, List.foldl_cons, List.foldl_nil]
      have hw := s.width_ge
      have hh := s.height_ge
      refine ((ih (by omega)).row s.width_le (by omega) s.height_le ?_).congr ?_
      · rintro c qx qy hl ⟨r, c', hr, _, _, hl'⟩
        have := spriteCoord_inj (show r < s.height by omega) (show k < s.height by omega)
          (hl'.2.2.2.trans hl.2.2.2.symm)
        omega
      · intro qx qy
        constructor
        · rintro (⟨r, c, hr, h⟩ | ⟨c, hc, h1, h2⟩)
          · exact ⟨r, c, by omega, h⟩
          · exact ⟨k, c, by omega, hc, h1, h2⟩
        · rintro ⟨r, c, hr, hc, h1, h2⟩
          rcases Nat.lt_succ_iff_lt_or_eq.mp hr with hr | rfl
          · exact Or.inl ⟨r, c, hr, hc, h1, h2⟩
          · exact Or.inr ⟨c, hc, h1, h2⟩
  have hn : n.toNat ≤ 15 := by have := n.isLt; omega
  refine (main n.toNat hn).congr fun qx qy => ?_
  unfold State.covers Lands
  constructor
  · rintro ⟨r, c, hr, hc, hb, h1, h2, h3, h4⟩
    exact ⟨h1, h2, r, c, hr, hc, hb, h3, h4⟩
  · rintro ⟨h1, h2, r, c, hr, hc, hb, h3, h4⟩
    exact ⟨r, c, hr, hc, hb, h1, h2, h3, h4⟩

/-- A pixel after a scroll (44_draw_display.md R164). -/
theorem State.pixel_scrollWith (s : State) (f : Nat → Nat → Bool) (px py : Nat) :
    (s.scrollWith f).pixel px py =
      if px < s.width ∧ py < s.height then f px py else s.pixel px py := by
  have hw := s.width_le
  have hh := s.height_le
  unfold State.scrollWith
  rw [State.setFb_pixel, FrameBuffer.pixel_tabulate]
  by_cases h : px < 128 ∧ py < 64
  · simp [h]
  · rw [if_neg (by omega)]
    simp only [h, decide_false, Bool.false_and]
    exact (FrameBuffer.pixel_outside _ _ _ h).symm

end Sys2Proof.Machine
end

