-- ==== Sys2Proof/Laws/Memory.lean ====
section
/-! SUPPORT. The laws of memory: every operation keeps the canonical form, a read after a write, and equal bytes make equal memories. -/

namespace Sys2Proof.Machine

@[simp] theorem Memory.wfFrom_nil (lo : Nat) : Memory.wfFrom lo [] = true := rfl

/-- The canonical form of a nonempty memory, as propositions. -/
theorem Memory.wfFrom_cons (lo a : Nat) (b : Byte) (m : Memory) :
    Memory.wfFrom lo ((a, b) :: m) = true ↔
      lo ≤ a ∧ a < 4096 ∧ b ≠ resetByte a ∧ Memory.wfFrom (a + 1) m = true := by
  simp [Memory.wfFrom, and_assoc]

/-- A canonical form from an address on is one from every lower address on. -/
theorem Memory.wfFrom_mono {lo lo' : Nat} (h : lo' ≤ lo) : {m : Memory} →
    Memory.wfFrom lo m = true → Memory.wfFrom lo' m = true
  | [], _ => rfl
  | (a, b) :: m, hm => by
    rw [Memory.wfFrom_cons] at hm ⊢
    exact ⟨by omega, hm.2⟩

/-- A canonical form lists nothing below its lowest address. -/
theorem Memory.lookup_of_lt {lo a : Nat} (h : a < lo) : {m : Memory} →
    Memory.wfFrom lo m = true → Memory.lookup m a = none
  | [], _ => rfl
  | (k, v) :: m, hm => by
    rw [Memory.wfFrom_cons] at hm
    have : k ≠ a := by omega
    simp [Memory.lookup, this, Memory.lookup_of_lt (show a < k + 1 by omega) hm.2.2.2]

theorem Memory.wfFrom_cons_op {lo a : Nat} {b : Byte} {m : Memory} (hlo : lo ≤ a) (ha : a < 4096)
    (hm : Memory.wfFrom (a + 1) m = true) : Memory.wfFrom lo (Memory.cons a b m) = true := by
  unfold Memory.cons
  split
  · exact Memory.wfFrom_mono (by omega) hm
  · rename_i h
    rw [Memory.wfFrom_cons]
    exact ⟨hlo, ha, h, hm⟩

/-- Replacing a byte keeps the canonical form. -/
theorem Memory.wfFrom_put {a : Nat} {b : Byte} (ha : a < 4096) : {lo : Nat} → {m : Memory} → lo ≤ a →
    Memory.wfFrom lo m = true → Memory.wfFrom lo (Memory.put m a b) = true
  | _, [], hlo, _ => Memory.wfFrom_cons_op hlo ha rfl
  | lo, (k, v) :: m, hlo, hm => by
    have hm' := (Memory.wfFrom_cons lo k v m).mp hm
    unfold Memory.put
    split
    · refine Memory.wfFrom_cons_op hlo ha ?_
      rw [Memory.wfFrom_cons]
      exact ⟨by omega, hm'.2⟩
    · split
      · rename_i h
        subst h
        exact Memory.wfFrom_cons_op hlo ha hm'.2.2.2
      · rw [Memory.wfFrom_cons]
        exact ⟨hm'.1, hm'.2.1, hm'.2.2.1, Memory.wfFrom_put ha (by omega) hm'.2.2.2⟩

/-- A write keeps the canonical form. -/
theorem Memory.wf_write {m : Memory} (hm : Memory.wf m = true) (addr : Nat) (b : Byte) :
    Memory.wf (Memory.write m addr b) = true :=
  Memory.wfFrom_put (Nat.mod_lt _ (by decide)) (Nat.zero_le _) hm

/-- A run of writes keeps the canonical form. -/
theorem Memory.wf_writeBytes : {m : Memory} → (addr : Nat) → (bs : List Byte) → Memory.wf m = true →
    Memory.wf (Memory.writeBytes m addr bs) = true
  | _, _, [], hm => hm
  | _, addr, b :: bs, hm => Memory.wf_writeBytes (addr + 1) bs (Memory.wf_write hm addr b)

/-- The empty memory is canonical. -/
theorem Memory.wf_nil : Memory.wf [] = true := rfl

/-- The memory after `load` is canonical. -/
theorem Memory.wf_image (font program : List Byte) : Memory.wf (Memory.image font program) = true :=
  Memory.wf_writeBytes _ _ (Memory.wf_writeBytes _ _ Memory.wf_nil)

/-- What a memory lists after an entry was put in front of it. -/
theorem Memory.lookup_cons_op {a c : Nat} {b : Byte} {m : Memory} (hm : Memory.wfFrom (a + 1) m = true) :
    (Memory.lookup (Memory.cons a b m) c).getD (resetByte c) =
      if c = a then b else (Memory.lookup m c).getD (resetByte c) := by
  unfold Memory.cons
  by_cases h : b = resetByte a
  · simp only [h, if_true]
    by_cases hc : c = a
    · subst hc
      simp [Memory.lookup_of_lt (Nat.lt_succ_self c) hm]
    · simp [hc]
  · simp only [h, if_false, Memory.lookup]
    by_cases hc : a = c
    · simp [hc]
    · simp [hc, Ne.symm hc]

/-- What a memory lists after a byte was replaced. -/
theorem Memory.lookup_put {a c : Nat} {b : Byte} : {lo : Nat} → {m : Memory} →
    Memory.wfFrom lo m = true →
    (Memory.lookup (Memory.put m a b) c).getD (resetByte c) =
      if c = a then b else (Memory.lookup m c).getD (resetByte c)
  | _, [], _ => Memory.lookup_cons_op rfl
  | lo, (k, v) :: m, hm => by
    have hm' := (Memory.wfFrom_cons lo k v m).mp hm
    unfold Memory.put
    split
    · refine Memory.lookup_cons_op ?_
      rw [Memory.wfFrom_cons]
      exact ⟨by omega, hm'.2⟩
    · split
      · rename_i h
        subst h
        rw [Memory.lookup_cons_op hm'.2.2.2]
        by_cases hc : c = a
        · simp [hc]
        · simp [hc, Memory.lookup, Ne.symm hc]
      · rename_i h1 h2
        by_cases hk : k = c
        · subst hk
          simp [Memory.lookup, Ne.symm h2]
        · simp [Memory.lookup, hk, Memory.lookup_put hm'.2.2.2]

/-- A read after a write gives the written byte at its address and the old byte elsewhere
(20_memory.md R51, R60). -/
theorem Memory.read_write {m : Memory} (hm : Memory.wf m = true) (addr addr' : Nat) (b : Byte) :
    Memory.read (Memory.write m addr b) addr' =
      if addr' % 4096 = addr % 4096 then b else Memory.read m addr' :=
  Memory.lookup_put hm

/-- A read outside a run of writes gives the old byte. -/
theorem Memory.read_writeBytes_other : {m : Memory} → (addr : Nat) → (bs : List Byte) →
    Memory.wf m = true → (addr' : Nat) → (∀ k, k < bs.length → addr' % 4096 ≠ (addr + k) % 4096) →
    Memory.read (Memory.writeBytes m addr bs) addr' = Memory.read m addr'
  | _, _, [], _, _, _ => rfl
  | m, addr, b :: bs, hm, addr', h => by
    rw [Memory.writeBytes, Memory.read_writeBytes_other (addr + 1) bs (Memory.wf_write hm _ _) addr'
      (fun k hk => by have := h (k + 1) (by simp; omega); rwa [show addr + 1 + k = addr + (k + 1) by omega]),
      Memory.read_write hm, if_neg (by simpa using h 0 (by simp))]

/-- A read after a run of writes, of at most the whole memory: the `k`-th byte at `addr + k`. -/
theorem Memory.read_writeBytes_get : {m : Memory} → (addr : Nat) → (bs : List Byte) →
    Memory.wf m = true → bs.length ≤ 4096 → (addr' k : Nat) → (hk : k < bs.length) →
    addr' % 4096 = (addr + k) % 4096 → Memory.read (Memory.writeBytes m addr bs) addr' = bs[k]
  | m, addr, b :: bs, hm, hl, addr', 0, _, ha => by
    have ha : addr' % 4096 = addr % 4096 := ha
    rw [Memory.writeBytes, Memory.read_writeBytes_other _ _ (Memory.wf_write hm _ _),
      Memory.read_write hm, if_pos ha]
    · rfl
    · intro k hk
      simp at hl
      omega
  | m, addr, b :: bs, hm, hl, addr', k + 1, hk, ha => by
    rw [Memory.writeBytes]
    simp at hl hk
    rw [Memory.read_writeBytes_get (addr + 1) bs (Memory.wf_write hm _ _) (by omega) addr' k hk
      (by rw [ha]; congr 1; omega)]
    rfl

/-- An address is read modulo 4096. -/
theorem Memory.read_mod (m : Memory) (addr : Nat) : Memory.read m (addr % 4096) = Memory.read m addr := by
  simp [Memory.read]

/-- A memory built from a function is canonical. -/
theorem Memory.wf_tabulate (f : Nat → Byte) : Memory.wf (Memory.tabulate f) = true := by
  have h : ∀ n lo, lo + n ≤ 4096 → Memory.wfFrom lo ((List.range' lo n).filterMap fun a =>
      if f a = resetByte a then none else some (a, f a)) = true := by
    intro n
    induction n with
    | zero => intros; rfl
    | succ n ih =>
      intro lo hlo
      rw [List.range'_succ, List.filterMap_cons]
      split
      · exact Memory.wfFrom_mono (Nat.le_succ lo) (ih (lo + 1) (by omega))
      · rename_i h
        split at h
        · cases h
        · rename_i h0
          obtain rfl := Option.some.inj h
          rw [Memory.wfFrom_cons]
          exact ⟨Nat.le_refl _, by omega, h0, ih (lo + 1) (by omega)⟩
  rw [Memory.tabulate, List.range_eq_range']
  exact h 4096 0 (by omega)

end Sys2Proof.Machine
end

