-- ==== Sys2Proof/Laws/Ops.lean ====
section
/-! SUPPORT. What each shared operation of the meanings can do, said once: the registers after the flagged writes and the block load, the program counter after a skip, the fetch, and the frames of the operations. -/

namespace Sys2Proof.Machine

/-- A register after a result and a flag were written. -/
theorem State.reg_writeFlagged (s : State) (order : WriteOrder) (x r : Nibble) (result flag : Byte) :
    (s.writeFlagged order x result flag).reg r =
      if r = vf then (if x = vf then remains order result flag else flag)
      else if r = x then result else s.reg r := by
  cases order <;> simp only [State.writeFlagged, State.reg_setReg, remains] <;>
    by_cases h : x = vf <;> by_cases h' : r = vf <;> simp_all [eq_comm]

/-- A flagged write is what `FlaggedWrite` says. -/
theorem State.writeFlagged_flaggedWrite (s : State) (order : WriteOrder) (x : Nibble)
    (result flag : Byte) : FlaggedWrite order x result flag s (s.writeFlagged order x result flag) := by
  refine ⟨fun h => ?_, fun h => ?_, fun r hr => ?_⟩
  · simp [State.reg_writeFlagged, h]
  · simp [State.reg_writeFlagged, h]
  · simp only [List.mem_cons, List.not_mem_nil, or_false, not_or] at hr
    simp [State.reg_writeFlagged, hr.1, hr.2]

/-- A logic write is what `LogicWrite` says. -/
theorem State.writeLogic_logicWrite (s : State) (x : Nibble) (result : Byte) :
    LogicWrite x result s (s.writeLogic x result) := by
  unfold State.writeLogic State.logicNoVF
  refine ⟨fun h => ?_, fun h => ?_⟩
  · rw [if_pos h]
    exact ⟨State.reg_setReg_self _ _ _, fun r hr => State.reg_setReg_of_ne _ _ _ _ (by simpa using hr)⟩
  · rw [if_neg (by rw [h]; exact Bool.false_ne_true)]
    exact State.writeFlagged_flaggedWrite _ _ _ _ _

/-- The register writes of an instruction do not look at the display. -/
theorem State.writeFlagged_withFb (s : State) (fb : FrameBuffer) (order : WriteOrder) (x : Nibble)
    (result flag : Byte) : State.writeFlagged { s with fb := fb } order x result flag =
      { s.writeFlagged order x result flag with fb := fb } := by
  cases order <;> rfl

theorem State.writeLogic_withFb (s : State) (fb : FrameBuffer) (x : Nibble) (result : Byte) :
    State.writeLogic { s with fb := fb } x result = { s.writeLogic x result with fb := fb } := by
  have hq : State.logicNoVF { s with fb := fb } = s.logicNoVF := rfl
  have hp : State.params { s with fb := fb } = s.params := rfl
  unfold State.writeLogic
  rw [hq, hp, State.writeFlagged_withFb]
  split <;> rfl

/-- A part is kept from a state to itself. -/
theorem Kept.refl (s : State) (p : Part) : Kept s s p := by
  cases p <;> simp [Kept]

/-- A part kept twice in a row is kept. -/
theorem Kept.trans {s t u : State} {p : Part} (h : Kept s t p) (h' : Kept t u p) : Kept s u p := by
  cases p with
  | regs => exact fun r => (h' r).trans (h r)
  | pixels => exact fun px py => (h' px py).trans (h px py)
  | memory => exact fun a => (h' a).trans (h a)
  | keyLatch | loadStatus => exact ⟨h'.1.trans h.1, h'.2.trans h.2⟩
  | _ => exact Eq.trans h' h

theorem Frame.refl (changed : List Part) (s : State) : Frame changed s s := fun p _ => Kept.refl s p

theorem Frame.trans {changed : List Part} {s t u : State} (h : Frame changed s t)
    (h' : Frame changed t u) : Frame changed s u := fun p hp => (h p hp).trans (h' p hp)

/-- A frame that allows more. -/
theorem Frame.mono {changed changed' : List Part} {s t : State} (h : Frame changed s t)
    (sub : ∀ p ∈ changed, p ∈ changed') : Frame changed' s t := fun p hp => h p fun hc => hp (sub p hc)

/-- A skip writes `PC` only. -/
theorem State.skipIf_eq (s : State) (c : Bool) :
    s.skipIf c = s.setPc (if c then s.pc + 2 else s.pc) := by
  cases c <;> rfl

/-- The register part is the only one a register write changes. -/
theorem State.setReg_frame (s : State) (r : Nibble) (b : Byte) : Frame [.regs] s (s.setReg r b) := by
  intro p hp
  cases p <;> simp_all [Kept]

theorem State.writeFlagged_frame (s : State) (order : WriteOrder) (x : Nibble) (result flag : Byte) :
    Frame [.regs] s (s.writeFlagged order x result flag) := by
  intro p hp
  cases order <;> cases p <;> simp_all [Kept, State.writeFlagged]

theorem State.writeLogic_frame (s : State) (x : Nibble) (result : Byte) :
    Frame [.regs] s (s.writeLogic x result) := by
  unfold State.writeLogic
  split
  · exact s.setReg_frame x result
  · exact s.writeFlagged_frame _ x result 0

theorem State.skipIf_frame (s : State) (c : Bool) : Frame [.pc] s (s.skipIf c) := by
  intro p hp
  rw [State.skipIf_eq]
  cases p <;> simp_all [Kept]

theorem State.scrollWith_frame (s : State) (f : Nat → Nat → Bool) :
    Frame [.pixels] s (s.scrollWith f) := by
  intro p hp
  cases p <;> simp_all [Kept, State.scrollWith]

/-- What the block load does to the registers: the first `count` of them are loaded. -/
theorem State.reg_loadRegs (s : State) (count : Nat) (hc : count ≤ 16) (r : Nibble) :
    (s.loadRegs count).reg r =
      if r.toNat < count then s.memByte (s.i.toNat + r.toNat) else s.reg r := by
  unfold State.loadRegs
  induction count with
  | zero => simp
  | succ k ih =>
    rw [List.range_succ, List.foldl_append, List.foldl_cons, List.foldl_nil, State.reg_setReg,
      ih (by omega)]
    have hk : (BitVec.ofNat 4 k).toNat = k := by
      rw [BitVec.toNat_ofNat]; exact Nat.mod_eq_of_lt (by omega)
    by_cases h : r = BitVec.ofNat 4 k
    · subst h
      rw [if_pos rfl, hk, if_pos (by omega)]
    · have : r.toNat ≠ k := fun e => h (BitVec.eq_of_toNat_eq (by rw [e, hk]))
      rw [if_neg h]
      by_cases h2 : r.toNat < k
      · rw [if_pos h2, if_pos (by omega)]
      · rw [if_neg h2, if_neg (by omega)]

/-- The block load changes the register file only. -/
theorem State.loadRegs_form (s : State) (count : Nat) :
    s.loadRegs count = { s with v := (s.loadRegs count).v } := by
  unfold State.loadRegs
  induction count with
  | zero => rfl
  | succ k ih =>
    rw [List.range_succ, List.foldl_append, List.foldl_cons, List.foldl_nil, ih]
    rfl

theorem State.loadRegs_frame (s : State) (count : Nat) : Frame [.regs] s (s.loadRegs count) := by
  intro p hp
  rw [State.loadRegs_form]
  cases p <;> simp_all [Kept, State.memByte, State.pixel]

@[simp] theorem State.regsUpTo_length (s : State) (x : Nibble) : (s.regsUpTo x).length = x.toNat + 1 := by
  simp [State.regsUpTo]

theorem State.regsUpTo_get (s : State) (x : Nibble) (k : Nat) (hk : k < (s.regsUpTo x).length) :
    (s.regsUpTo x)[k] = s.reg (BitVec.ofNat 4 k) := by
  simp [State.regsUpTo]

/-- The fetched word of the state `withFetchWord` builds is the word it was given. -/
theorem State.fetchWord_withFetchWord (s : State) (hm : Memory.wf s.mem = true) (nbits w : Nat) :
    (s.withFetchWord nbits w).fetchWord = tableWord nbits w := by
  unfold State.fetchWord State.withFetchWord Memory.readWord
  simp only
  rw [Memory.read_writeBytes_get _ _ hm (by simp) _ 0 (by simp) (by simp),
    Memory.read_writeBytes_get _ _ hm (by simp) _ 1 (by simp) rfl]
  exact word_bytes _

end Sys2Proof.Machine
end

