-- ==== Sys2Proof/Laws/PerInstr.lean ====
section
/-! SUPPORT. A fact about every instruction as syntax, one lemma per constructor: its word matches its own row of the opcode table (30_encoding.md R75, R76). -/

namespace Sys2Proof.Laws

/-- Joined parts meet a joined mask part by part. -/
theorem and_mask {a b : Nat} (u m : BitVec a) (v k : BitVec b) :
    (u ++ v) &&& (m ++ k) = (u &&& m) ++ (v &&& k) := by
  apply BitVec.eq_of_getLsbD_eq
  intro i hi
  simp only [BitVec.getLsbD_and, BitVec.getLsbD_append]
  split <;> rfl

theorem nibble_all (a : Nibble) : a &&& 15#4 = a := BitVec.and_allOnes

theorem byte_all (kk : Byte) : kk &&& 255#8 = kk := BitVec.and_allOnes

/-- A word of format `N`, `X`, `XY` or `XYN` under a mask given by nibbles. -/
theorem and_nibbles (a b c d m1 m2 m3 m4 : Nibble) :
    (a ++ b ++ c ++ d) &&& (m1 ++ m2 ++ m3 ++ m4) = (a &&& m1) ++ (b &&& m2) ++ (c &&& m3) ++ (d &&& m4) := by
  rw [and_mask, and_mask, and_mask]

/-- The word of a format `X` row under its mask. -/
theorem matches_x (a x : Nibble) (kk : Byte) :
    (a ++ x ++ kk) &&& (0xF#4 ++ 0x0#4 ++ 0xFF#8) = a ++ 0x0#4 ++ kk := by
  rw [and_mask, and_mask]
  simp [nibble_all, byte_all]

/-- The word of a format `XY` row under its mask. -/
theorem matches_xy (a x y d : Nibble) :
    (a ++ x ++ y ++ d) &&& (0xF#4 ++ 0x0#4 ++ 0x0#4 ++ 0xF#4) = a ++ 0x0#4 ++ 0x0#4 ++ d := by
  rw [and_nibbles]
  simp [nibble_all]

/-- The word of a row with mask 0xF000. -/
theorem matches_top (a : Nibble) (nnn : Addr) : (a ++ nnn) &&& (0xF#4 ++ 0x000#12) = a ++ 0x000#12 := by
  rw [and_mask]
  simp [nibble_all]

/-- The same for a row of format `XK`. -/
theorem matches_top_byte (a x : Nibble) (kk : Byte) :
    (a ++ x ++ kk) &&& (0xF#4 ++ 0x0#4 ++ 0x00#8) = a ++ 0x0#4 ++ 0x00#8 := by
  rw [and_mask, and_mask]
  simp [nibble_all]

/-- The same for a row of format `XYN`. -/
theorem matches_top_nibbles (a x y n : Nibble) :
    (a ++ x ++ y ++ n) &&& (0xF#4 ++ 0x0#4 ++ 0x0#4 ++ 0x0#4) = a ++ 0x0#4 ++ 0x0#4 ++ 0x0#4 := by
  rw [and_nibbles]
  simp [nibble_all]

/-- The word of an instruction matches the row of the opcode table that stands for it. -/
def OwnRow.Statement (i : Instr) : Prop :=
  ∃ row, opcodeTable[i.row]? = some row ∧ encode i &&& row.2 = row.1

theorem OwnRow.cls : OwnRow.Statement .cls := ⟨_, rfl, rfl⟩
theorem OwnRow.ret : OwnRow.Statement .ret := ⟨_, rfl, rfl⟩
theorem OwnRow.scr : OwnRow.Statement .scr := ⟨_, rfl, rfl⟩
theorem OwnRow.scl : OwnRow.Statement .scl := ⟨_, rfl, rfl⟩
theorem OwnRow.low : OwnRow.Statement .low := ⟨_, rfl, rfl⟩
theorem OwnRow.high : OwnRow.Statement .high := ⟨_, rfl, rfl⟩
theorem OwnRow.scd (n : Nibble) : OwnRow.Statement (.scd n) := ⟨_, rfl, (and_nibbles 0#4 0#4 0xC#4 n 0xF#4 0xF#4 0xF#4 0#4).trans (by simp [nibble_all])⟩
theorem OwnRow.skp (x : Nibble) : OwnRow.Statement (.skp x) := ⟨_, rfl, matches_x _ x _⟩
theorem OwnRow.sknp (x : Nibble) : OwnRow.Statement (.sknp x) := ⟨_, rfl, matches_x _ x _⟩
theorem OwnRow.ldVxDt (x : Nibble) : OwnRow.Statement (.ldVxDt x) := ⟨_, rfl, matches_x _ x _⟩
theorem OwnRow.ldVxK (x : Nibble) : OwnRow.Statement (.ldVxK x) := ⟨_, rfl, matches_x _ x _⟩
theorem OwnRow.ldDtVx (x : Nibble) : OwnRow.Statement (.ldDtVx x) := ⟨_, rfl, matches_x _ x _⟩
theorem OwnRow.ldStVx (x : Nibble) : OwnRow.Statement (.ldStVx x) := ⟨_, rfl, matches_x _ x _⟩
theorem OwnRow.addIVx (x : Nibble) : OwnRow.Statement (.addIVx x) := ⟨_, rfl, matches_x _ x _⟩
theorem OwnRow.ldFVx (x : Nibble) : OwnRow.Statement (.ldFVx x) := ⟨_, rfl, matches_x _ x _⟩
theorem OwnRow.ldBVx (x : Nibble) : OwnRow.Statement (.ldBVx x) := ⟨_, rfl, matches_x _ x _⟩
theorem OwnRow.ldMemVx (x : Nibble) : OwnRow.Statement (.ldMemVx x) := ⟨_, rfl, matches_x _ x _⟩
theorem OwnRow.ldVxMem (x : Nibble) : OwnRow.Statement (.ldVxMem x) := ⟨_, rfl, matches_x _ x _⟩
theorem OwnRow.seVxVy (x : Nibble) (y : Nibble) : OwnRow.Statement (.seVxVy x y) := ⟨_, rfl, matches_xy _ x y _⟩
theorem OwnRow.ldVxVy (x : Nibble) (y : Nibble) : OwnRow.Statement (.ldVxVy x y) := ⟨_, rfl, matches_xy _ x y _⟩
theorem OwnRow.orVxVy (x : Nibble) (y : Nibble) : OwnRow.Statement (.orVxVy x y) := ⟨_, rfl, matches_xy _ x y _⟩
theorem OwnRow.andVxVy (x : Nibble) (y : Nibble) : OwnRow.Statement (.andVxVy x y) := ⟨_, rfl, matches_xy _ x y _⟩
theorem OwnRow.xorVxVy (x : Nibble) (y : Nibble) : OwnRow.Statement (.xorVxVy x y) := ⟨_, rfl, matches_xy _ x y _⟩
theorem OwnRow.addVxVy (x : Nibble) (y : Nibble) : OwnRow.Statement (.addVxVy x y) := ⟨_, rfl, matches_xy _ x y _⟩
theorem OwnRow.subVxVy (x : Nibble) (y : Nibble) : OwnRow.Statement (.subVxVy x y) := ⟨_, rfl, matches_xy _ x y _⟩
theorem OwnRow.shrVxVy (x : Nibble) (y : Nibble) : OwnRow.Statement (.shrVxVy x y) := ⟨_, rfl, matches_xy _ x y _⟩
theorem OwnRow.subnVxVy (x : Nibble) (y : Nibble) : OwnRow.Statement (.subnVxVy x y) := ⟨_, rfl, matches_xy _ x y _⟩
theorem OwnRow.shlVxVy (x : Nibble) (y : Nibble) : OwnRow.Statement (.shlVxVy x y) := ⟨_, rfl, matches_xy _ x y _⟩
theorem OwnRow.sneVxVy (x : Nibble) (y : Nibble) : OwnRow.Statement (.sneVxVy x y) := ⟨_, rfl, matches_xy _ x y _⟩
theorem OwnRow.jp (nnn : Addr) : OwnRow.Statement (.jp nnn) := ⟨_, rfl, matches_top _ nnn⟩
theorem OwnRow.call (nnn : Addr) : OwnRow.Statement (.call nnn) := ⟨_, rfl, matches_top _ nnn⟩
theorem OwnRow.seVxKk (x : Nibble) (kk : Byte) : OwnRow.Statement (.seVxKk x kk) := ⟨_, rfl, matches_top_byte _ x kk⟩
theorem OwnRow.sneVxKk (x : Nibble) (kk : Byte) : OwnRow.Statement (.sneVxKk x kk) := ⟨_, rfl, matches_top_byte _ x kk⟩
theorem OwnRow.ldVxKk (x : Nibble) (kk : Byte) : OwnRow.Statement (.ldVxKk x kk) := ⟨_, rfl, matches_top_byte _ x kk⟩
theorem OwnRow.addVxKk (x : Nibble) (kk : Byte) : OwnRow.Statement (.addVxKk x kk) := ⟨_, rfl, matches_top_byte _ x kk⟩
theorem OwnRow.ldI (nnn : Addr) : OwnRow.Statement (.ldI nnn) := ⟨_, rfl, matches_top _ nnn⟩
theorem OwnRow.jpV0 (nnn : Addr) : OwnRow.Statement (.jpV0 nnn) := ⟨_, rfl, matches_top _ nnn⟩
theorem OwnRow.rnd (x : Nibble) (kk : Byte) : OwnRow.Statement (.rnd x kk) := ⟨_, rfl, matches_top_byte _ x kk⟩
theorem OwnRow.drw (x : Nibble) (y : Nibble) (n : Nibble) : OwnRow.Statement (.drw x y n) := ⟨_, rfl, matches_top_nibbles _ x y n⟩

end Sys2Proof.Laws
end

