-- ==== Sys2Proof/Laws/Step.lean ====
section
/-! SUPPORT. What one step can do, said once: the operation it performs, and the cases of `stepInstruction`. -/

namespace Sys2Proof.Machine

/-! Taking an operation off the host's list changes the list only. -/

@[simp] theorem State.takeOp_inputs (s : State) : s.takeOp.inputs = s.inputs.tail := rfl
@[simp] theorem State.takeOp_v (s : State) : s.takeOp.v = s.v := rfl
@[simp] theorem State.takeOp_i (s : State) : s.takeOp.i = s.i := rfl
@[simp] theorem State.takeOp_pc (s : State) : s.takeOp.pc = s.pc := rfl
@[simp] theorem State.takeOp_stack (s : State) : s.takeOp.stack = s.stack := rfl
@[simp] theorem State.takeOp_sp (s : State) : s.takeOp.sp = s.sp := rfl
@[simp] theorem State.takeOp_dt (s : State) : s.takeOp.dt = s.dt := rfl
@[simp] theorem State.takeOp_st (s : State) : s.takeOp.st = s.st := rfl
@[simp] theorem State.takeOp_keys (s : State) : s.takeOp.keys = s.keys := rfl
@[simp] theorem State.takeOp_keyWait (s : State) : s.takeOp.keyWait = s.keyWait := rfl
@[simp] theorem State.takeOp_keyReg (s : State) : s.takeOp.keyReg = s.keyReg := rfl
@[simp] theorem State.takeOp_frameWait (s : State) : s.takeOp.frameWait = s.frameWait := rfl
@[simp] theorem State.takeOp_hires (s : State) : s.takeOp.hires = s.hires := rfl
@[simp] theorem State.takeOp_fb (s : State) : s.takeOp.fb = s.fb := rfl
@[simp] theorem State.takeOp_q (s : State) : s.takeOp.q = s.q := rfl
@[simp] theorem State.takeOp_mem (s : State) : s.takeOp.mem = s.mem := rfl
@[simp] theorem State.takeOp_result (s : State) : s.takeOp.result = s.result := rfl
@[simp] theorem State.takeOp_loadResult (s : State) : s.takeOp.loadResult = s.loadResult := rfl
@[simp] theorem State.takeOp_rndIndex (s : State) : s.takeOp.rndIndex = s.rndIndex := rfl
@[simp] theorem State.takeOp_loadFailures (s : State) : s.takeOp.loadFailures = s.loadFailures := rfl
@[simp] theorem State.takeOp_params (s : State) : s.takeOp.params = s.params := rfl
@[simp] theorem State.takeOp_reg (s : State) (r : Nibble) : s.takeOp.reg r = s.reg r := rfl
@[simp] theorem State.takeOp_memByte (s : State) (a : Nat) : s.takeOp.memByte a = s.memByte a := rfl
@[simp] theorem State.takeOp_pixel (s : State) (px py : Nat) : s.takeOp.pixel px py = s.pixel px py := rfl
@[simp] theorem State.takeOp_fetchWord (s : State) : s.takeOp.fetchWord = s.fetchWord := rfl
@[simp] theorem State.takeOp_suspended (s : State) : s.takeOp.suspended = s.suspended := rfl
@[simp] theorem State.takeOp_execState (s : State) : s.takeOp.execState = s.execState := rfl

/-- The next operation of a list is its head. -/
@[simp] theorem State.nextOp_cons (s : State) (op : HostOp) (rest : List HostOp)
    (h : s.inputs = op :: rest) : s.nextOp = op := by
  simp [State.nextOp, h]

/-- After a successful `load` an operation is performed. -/
theorem State.ifLoaded_ok {s : State} (h : s.loadResult = .loadOk) (a : Answer) : s.ifLoaded a = a := by
  simp [State.ifLoaded, h]

/-- After a rejected `load` it is refused. -/
theorem State.ifLoaded_fail {s : State} (h : s.loadResult = .loadFail) (a : Answer) :
    s.ifLoaded a = .refused .afterRejectedLoad := by
  simp [State.ifLoaded, h]

/-- A step that performs `stepInstruction`. -/
theorem step_stepInstruction {s : State} (hop : s.nextOp = .stepInstruction)
    (hl : s.loadResult = .loadOk) : step s = stepInstruction s.takeOp := by
  unfold step runHostOp
  rw [hop]
  exact State.ifLoaded_ok hl _

/-- A step that performs any other operation but a `load`. -/
theorem step_stepFrame {s : State} (hop : s.nextOp = .stepFrame) (hl : s.loadResult = .loadOk) :
    step s = .next (stepFrame s.takeOp) := by
  unfold step runHostOp
  rw [hop]
  exact State.ifLoaded_ok hl _

theorem step_setKey {s : State} {code : Nibble} {pressed : Bool} (hop : s.nextOp = .setKey code pressed)
    (hl : s.loadResult = .loadOk) : step s = .next (setKey code pressed s.takeOp) := by
  unfold step runHostOp
  rw [hop]
  exact State.ifLoaded_ok hl _

theorem step_setQuirks {s : State} {q : Quirks} (hop : s.nextOp = .setQuirks q)
    (hl : s.loadResult = .loadOk) : step s = .next (setQuirks q s.takeOp) := by
  unfold step runHostOp
  rw [hop]
  exact State.ifLoaded_ok hl _

/-- A step that performs a `load`, whatever the latest one returned. -/
theorem step_load {s : State} {program : List Byte} {q : Quirks} (hop : s.nextOp = .load program q) :
    step s = .next (load program q s.takeOp) := by
  unfold step runHostOp
  rw [hop]

/-! What `load` leaves. -/

@[simp] theorem loaded_loadResult (p : List Byte) (q : Quirks) (s : State) :
    (loaded p q s).loadResult = .loadOk := rfl
@[simp] theorem loaded_mem (p : List Byte) (q : Quirks) (s : State) :
    (loaded p q s).mem = Memory.image s.params.font.toList p := rfl
@[simp] theorem loaded_execState (p : List Byte) (q : Quirks) (s : State) :
    (loaded p q s).execState = .running := rfl
@[simp] theorem loadRejected_loadResult (s : State) : (loadRejected s).loadResult = .loadFail := rfl
@[simp] theorem loadRejected_mem (s : State) : (loadRejected s).mem = unspecifiedMem s.loadFailures := by
  simp only [loadRejected]
@[simp] theorem loadRejected_inputs (s : State) : (loadRejected s).inputs = s.inputs := rfl
@[simp] theorem loadRejected_params (s : State) : (loadRejected s).params = s.params := rfl
@[simp] theorem loadRejected_rndIndex (s : State) : (loadRejected s).rndIndex = s.rndIndex := rfl
@[simp] theorem loadRejected_loadFailures (s : State) :
    (loadRejected s).loadFailures = s.loadFailures + 1 := rfl

theorem loaded_of_le {p : List Byte} (h : p.length ≤ 3584) (q : Quirks) (s : State) :
    load p q s = loaded p q s := if_pos h

theorem loadRejected_of_lt {p : List Byte} (h : 3584 < p.length) (q : Quirks) (s : State) :
    load p q s = loadRejected s := if_neg (by omega)

/-- The free memory is canonical. -/
theorem wf_unspecifiedMem (k : Nat) : Memory.wf (unspecifiedMem k) = true := Memory.wf_tabulate _

/-- A suspended core does nothing (40_fetch_dispatch.md R91). -/
theorem stepInstruction_suspended {s : State} (h : s.suspended = true) :
    stepInstruction s = .next (s.setResult .ok) := by
  unfold stepInstruction
  rw [if_pos h]

/-- A running core executes the decoded instruction past its word (40_fetch_dispatch.md R90, R92). -/
theorem stepInstruction_ok {s : State} {i : Instr} (h : s.suspended = false)
    (hd : decode s.fetchWord = .ok i) :
    stepInstruction s = exec i ((s.setPc (s.pc + 2)).setResult .ok) := by
  unfold stepInstruction
  rw [if_neg (by simp [h]), hd]
  rfl

/-- A running core reports an undecodable word past it (40_fetch_dispatch.md R95). -/
theorem stepInstruction_error {s : State} {e : DecodeError} (h : s.suspended = false)
    (hd : decode s.fetchWord = .error e) :
    stepInstruction s = .next ((s.setPc (s.pc + 2)).setResult .decodeFailure) := by
  unfold stepInstruction
  rw [if_neg (by simp [h]), hd]
  rfl

/-- What an instruction can do to memory: nothing, or a run of bytes stored from `I` on. -/
theorem exec_mem {i : Instr} {s t : State} (h : exec i s = .next t) :
    t.mem = s.mem ∨ ∃ bs, t.mem = Memory.writeBytes s.mem s.i.toNat bs := by
  cases i with
  | ldBVx x => exact Or.inr ⟨_, (congrArg State.mem (Host.Outcome.next.inj h)).symm⟩
  | ldMemVx x => exact Or.inr ⟨_, (congrArg State.mem (Host.Outcome.next.inj h)).symm⟩
  | call nnn =>
    refine Or.inl ?_
    simp only [exec, execCall] at h
    split at h <;> exact (congrArg State.mem (Host.Outcome.next.inj h)).symm
  | ret =>
    refine Or.inl ?_
    simp only [exec, execRet] at h
    split at h <;> exact (congrArg State.mem (Host.Outcome.next.inj h)).symm
  | low =>
    refine Or.inl ?_
    simp only [exec, execLow, State.switchMode] at h
    split at h <;> exact (congrArg State.mem (Host.Outcome.next.inj h)).symm
  | high =>
    refine Or.inl ?_
    simp only [exec, execHigh, State.switchMode] at h
    split at h <;> exact (congrArg State.mem (Host.Outcome.next.inj h)).symm
  | ldVxMem x =>
    have h := (congrArg State.mem (Host.Outcome.next.inj h)).symm
    rw [State.setI_mem, State.loadRegs_form] at h
    exact Or.inl h
  | skp _ | sknp _ | seVxVy _ _ | sneVxVy _ _ | seVxKk _ _ | sneVxKk _ _ =>
    have h := (congrArg State.mem (Host.Outcome.next.inj h)).symm
    rw [State.skipIf_eq] at h
    exact Or.inl h
  | addVxVy _ _ | subVxVy _ _ | subnVxVy _ _ | shrVxVy _ _ | shlVxVy _ _ =>
    have h := (congrArg State.mem (Host.Outcome.next.inj h)).symm
    refine Or.inl (h.trans ?_)
    simp only [State.writeFlagged]
    split <;> rfl
  | orVxVy _ _ | andVxVy _ _ | xorVxVy _ _ =>
    have h := (congrArg State.mem (Host.Outcome.next.inj h)).symm
    refine Or.inl (h.trans ?_)
    simp only [State.writeLogic, State.writeFlagged]
    split
    · rfl
    · split <;> rfl
  | scr | scl | scd _ =>
    simp only [exec, execScr, execScl, execScd, Host.Outcome.next.injEq] at h
    subst h
    exact Or.inl (by simp [State.scrollWith])
  | cls | ldVxDt _ | ldVxK _ | ldDtVx _ | ldStVx _ | addIVx _ | ldFVx _ | ldVxVy _ _
  | jp _ | ldVxKk _ _ | addVxKk _ _ | ldI _ | jpV0 _ | rnd _ _ | drw _ _ _ =>
    exact Or.inl (congrArg State.mem (Host.Outcome.next.inj h)).symm

end Sys2Proof.Machine
end

