-- ==== Sys2Proof/Tests/Slice0.lean ====
section
/-! SUPPORT. Tests. One thread checks them in turn (Elab.async false), since each check of many at once takes a stack of its own. The expected results are the vectors of spec/95_test_vectors.md (named S, F, C, D, K, T, Q, M, L and by its tables) or are worked out by hand from the rule named; no test fixes a free value. At the end stands one witness for each statement that has hypotheses. -/

set_option Elab.async false

namespace Sys2Proof.Tests

open Sys2Proof Sys2Proof.Machine

/-- The next state an answer gives; the reset state where it gives none. -/
def after : Answer → State
  | .next s => s
  | _ => State.reset

/-- One step that runs the instruction with the given word, placed at `PC`. -/
def run (w : Nat) (s : State) : State := after (step (s.withFetchWord 16 w))

/-- The state after reset with some registers. -/
def withRegs (rs : List (Nibble × Byte)) : State :=
  rs.foldl (fun s r => s.setReg r.1 r.2) State.reset

/-- A state with other quirks. -/
def withQuirks (q : Quirks) (s : State) : State := { s with q := q }

/-- A state with given coming operations of the host. -/
def withInputs (ops : List HostOp) (s : State) : State := { s with inputs := ops }

/-- A state with some pixels set. -/
def withPixels (ps : List (Nat × Nat)) (s : State) : State :=
  s.setFb (ps.foldl (fun fb p => FrameBuffer.setPixel fb p.1 p.2 true) s.fb)

/-- A state with a number of stack entries in use. -/
def withStack (sp : Fin 17) (w : Word) (s : State) : State :=
  { s with sp := sp, stack := Vector.replicate 16 w }

/-- Whether all the given pixels are set. -/
def allSet (s : State) (ps : List (Nat × Nat)) : Bool := ps.all fun p => s.pixel p.1 p.2

/-- Whether all the given pixels are clear. -/
def allClear (s : State) (ps : List (Nat × Nat)) : Bool := ps.all fun p => !s.pixel p.1 p.2

/-! ### Well-formedness: one ill-formed source for each check, which the check refuses -/

theorem test_wellFormed_unknown_row : Source.check ⟨39, []⟩ = .error .unknownRow := by decide

theorem test_wellFormed_operand_count :
    Source.check ⟨19, [1]⟩ = .error .operandCount ∧ Source.check ⟨0, [1]⟩ = .error .operandCount := by
  decide

theorem test_wellFormed_register : Source.check ⟨37, [16, 0]⟩ = .error (.register 16) := by decide

theorem test_wellFormed_address : Source.check ⟨29, [0x1000]⟩ = .error (.address 0x1000) := by decide

theorem test_wellFormed_byte : Source.check ⟨33, [0, 0x100]⟩ = .error (.byte 0x100) := by decide

theorem test_wellFormed_nibble :
    Source.check ⟨38, [0, 1, 16]⟩ = .error (.nibble 16) ∧ Source.check ⟨6, [16]⟩ = .error (.nibble 16) := by
  decide

/-- S11: `se v5 0x42` and `shl v7 v8`. -/
theorem test_wellFormed_accepts :
    Source.check ⟨31, [5, 0x42]⟩ = .ok (.seVxKk 5 0x42) ∧
    Source.check ⟨27, [7, 8]⟩ = .ok (.shlVxVy 7 8) ∧ Source.wellFormed ⟨29, [0xFFF]⟩ = true := by
  decide

/-! ### Decoding: a written-out word for every constructor (table 2.1) -/

theorem test_decode_exact :
    decode 0x00E0 = .ok .cls ∧ decode 0x00EE = .ok .ret ∧ decode 0x00FB = .ok .scr ∧
    decode 0x00FC = .ok .scl ∧ decode 0x00FE = .ok .low ∧ decode 0x00FF = .ok .high ∧
    decode 0x00C5 = .ok (.scd 5) ∧ decode 0x00C0 = .ok (.scd 0) := by decide

theorem test_decode_key_timer :
    decode 0xE29E = .ok (.skp 2) ∧ decode 0xE2A1 = .ok (.sknp 2) ∧ decode 0xF107 = .ok (.ldVxDt 1) ∧
    decode 0xF00A = .ok (.ldVxK 0) ∧ decode 0xF015 = .ok (.ldDtVx 0) ∧ decode 0xF418 = .ok (.ldStVx 4) := by
  decide

theorem test_decode_index_memory :
    decode 0xA208 = .ok (.ldI 0x208) ∧ decode 0xF21E = .ok (.addIVx 2) ∧ decode 0xF329 = .ok (.ldFVx 3) ∧
    decode 0xF033 = .ok (.ldBVx 0) ∧ decode 0xF155 = .ok (.ldMemVx 1) ∧ decode 0xF165 = .ok (.ldVxMem 1) := by
  decide

theorem test_decode_alu :
    decode 0x8120 = .ok (.ldVxVy 1 2) ∧ decode 0x8121 = .ok (.orVxVy 1 2) ∧
    decode 0x8122 = .ok (.andVxVy 1 2) ∧ decode 0x8123 = .ok (.xorVxVy 1 2) ∧
    decode 0x8124 = .ok (.addVxVy 1 2) ∧ decode 0x8125 = .ok (.subVxVy 1 2) ∧
    decode 0x8126 = .ok (.shrVxVy 1 2) ∧ decode 0x8127 = .ok (.subnVxVy 1 2) ∧
    decode 0x878E = .ok (.shlVxVy 7 8) := by decide

theorem test_decode_control :
    decode 0x1ABC = .ok (.jp 0xABC) ∧ decode 0x2FFF = .ok (.call 0xFFF) ∧ decode 0xB300 = .ok (.jpV0 0x300) ∧
    decode 0x3542 = .ok (.seVxKk 5 0x42) ∧ decode 0x4A00 = .ok (.sneVxKk 0xA 0) ∧
    decode 0x5120 = .ok (.seVxVy 1 2) ∧ decode 0x9120 = .ok (.sneVxVy 1 2) := by decide

theorem test_decode_immediate_draw :
    decode 0x6F01 = .ok (.ldVxKk 0xF 1) ∧ decode 0x71FF = .ok (.addVxKk 1 0xFF) ∧
    decode 0xC30F = .ok (.rnd 3 0x0F) ∧ decode 0xD011 = .ok (.drw 0 1 1) ∧
    decode 0xD120 = .ok (.drw 1 2 0) := by decide

theorem test_decode_fails_0_5_9 :
    decode 0x0000 = .error .unknown0 ∧ decode 0x00D0 = .error .unknown0 ∧ decode 0x00FD = .error .unknown0 ∧
    decode 0x00B3 = .error .unknown0 ∧ decode 0x0123 = .error .unknown0 ∧
    decode 0x5121 = .error .unknown5 ∧ decode 0x9001 = .error .unknown9 := by decide

theorem test_decode_fails_8_E_F :
    decode 0x8128 = .error .unknown8 ∧ decode 0x812D = .error .unknown8 ∧ decode 0x812F = .error .unknown8 ∧
    decode 0xE29F = .error .unknownE ∧ decode 0xE200 = .error .unknownE ∧ decode 0xF030 = .error .unknownF ∧
    decode 0xF075 = .error .unknownF ∧ decode 0xF085 = .error .unknownF ∧ decode 0xF156 = .error .unknownF ∧
    decode 0xFFFF = .error .unknownF := by decide

theorem test_decodeTableWord :
    decodeTableWord 16 0x878E = some (.shlVxVy 7 8) ∧ decodeTableWord 16 0xFFFF = none := by decide

theorem test_encodeBytes : encodeBytes (.seVxKk 5 0x42) = [0x35, 0x42] := by decide

/-! ### Fetch and suspension (table 2.2) -/

/-- F1: the fetch wraps at 0xFFF. -/
theorem test_fetch_wraps :
    (after (step ((State.reset.setPc 0xFFF).storeBytes 0xFFF [0x12]))).pc = 0x2F0 := by decide +kernel

/-- F3: `PC` is 16 bits wide, the address 12. -/
theorem test_pc_wraps :
    (run 0x6001 (State.reset.setPc 0xFFFE)).pc = 0 ∧
    (run 0x6001 (State.reset.setPc 0xFFFE)).reg 0 = 1 := by decide +kernel

/-- F4: zeroed memory does not decode. -/
theorem test_decode_failure :
    (after (step (State.reset.setPc 0x300))).result = .decodeFailure ∧
    (after (step (State.reset.setPc 0x300))).pc = 0x302 := by decide +kernel

/-- F5: a suspended step leaves `PC`. -/
theorem test_suspended :
    (after (step ((State.reset.setPc 0x208).setFrameWait true))).pc = 0x208 ∧
    (after (step ((State.reset.setPc 0x208).setFrameWait true))).result = .ok := by decide +kernel

/-! ### Control flow (table 2.3) -/

/-- C1. -/
theorem test_jp : (run 0x1200 State.reset).pc = 0x200 := by decide +kernel

/-- C2. -/
theorem test_call :
    (run 0x2206 State.reset).stack[0] = 0x202 ∧ (run 0x2206 State.reset).sp.val = 1 ∧
    (run 0x2206 State.reset).pc = 0x206 := by decide +kernel

/-- C3. -/
theorem test_call_overflow :
    (run 0x2206 (withStack 16 0x111 State.reset)).result = .stackOverflow ∧
    (run 0x2206 (withStack 16 0x111 State.reset)).pc = 0x202 ∧
    (run 0x2206 (withStack 16 0x111 State.reset)).stack[15] = 0x111 := by decide +kernel

/-- C4. -/
theorem test_ret :
    (run 0x00EE (withStack 1 0xABC State.reset)).pc = 0xABC ∧
    (run 0x00EE (withStack 1 0xABC State.reset)).sp.val = 0 := by decide +kernel

/-- C5. -/
theorem test_ret_underflow :
    (run 0x00EE State.reset).result = .stackUnderflow ∧ (run 0x00EE State.reset).pc = 0x202 := by
  decide +kernel

/-- C6, C8: the sum is not masked. -/
theorem test_jpV0 :
    (run 0xBFFF (withRegs [(0, 0xFF)])).pc = 0x10FE ∧
    (run 0xBF00 (withRegs [(0, 1), (15, 2)])).pc = 0xF01 := by decide +kernel

/-- C7: bit 2 of the quirks. -/
theorem test_jpV0_quirk : (run 0xBF00 (withQuirks 4 (withRegs [(0, 1), (15, 2)]))).pc = 0xF02 := by
  decide +kernel

/-- C9, C10. -/
theorem test_seVxKk :
    (run 0x3542 (withRegs [(5, 0x42)])).pc = 0x204 ∧ (run 0x3542 (withRegs [(5, 0x43)])).pc = 0x202 := by
  decide +kernel

/-- C11, C12. -/
theorem test_sneVxKk :
    (run 0x4542 (withRegs [(5, 0x42)])).pc = 0x202 ∧ (run 0x4542 (withRegs [(5, 0x43)])).pc = 0x204 := by
  decide +kernel

/-- C13, C15. -/
theorem test_seVxVy :
    (run 0x5330 State.reset).pc = 0x204 ∧ (run 0x5120 (withRegs [(2, 0xFF)])).pc = 0x202 := by decide +kernel

/-- C14, C15. -/
theorem test_sneVxVy :
    (run 0x9330 State.reset).pc = 0x202 ∧ (run 0x9120 (withRegs [(2, 0xFF)])).pc = 0x204 := by decide +kernel

/-- C16: a skip wraps. -/
theorem test_skip_wraps : (run 0x3000 (State.reset.setPc 0xFFFC)).pc = 0 := by decide +kernel

/-- C1, R251: a jump to itself; not with bits above the address in `PC`, nor while suspended. -/
theorem test_runOver :
    (State.reset.withFetchWord 16 0x1200).runOver = true ∧ (run 0x1200 State.reset).runOver = true ∧
    (State.reset.withFetchWord 16 0x1202).runOver = false ∧
    ((State.reset.withFetchWord 16 0x1200).setPc 0x1200).runOver = false ∧
    ((State.reset.withFetchWord 16 0x1200).setFrameWait true).runOver = false := by decide +kernel

/-! ### Registers (tables 2.4 and 2.5) -/

theorem test_ldVxVy :
    (run 0x8120 (withRegs [(1, 0x11), (2, 0x7C), (15, 9)])).reg 1 = 0x7C ∧
    (run 0x8120 (withRegs [(1, 0x11), (2, 0x7C), (15, 9)])).reg 15 = 9 := by decide +kernel

theorem test_orVxVy :
    (run 0x8121 (withRegs [(1, 0xF0), (2, 0x0F), (15, 9)])).reg 1 = 0xFF ∧
    (run 0x8121 (withRegs [(1, 0xF0), (2, 0x0F), (15, 9)])).reg 15 = 0 := by decide +kernel

/-- `or vf v1` for both values of `logicNoVF`, bit 1 of the quirks. -/
theorem test_orVxVy_flag_register :
    (run 0x8F11 (withRegs [(15, 1), (1, 2)])).reg 15 = 0 ∧
    (run 0x8F11 (withQuirks 2 (withRegs [(15, 1), (1, 2)]))).reg 15 = 3 := by decide +kernel

theorem test_andVxVy :
    (run 0x8122 (withRegs [(1, 0xF3), (2, 0x3C), (15, 9)])).reg 1 = 0x30 ∧
    (run 0x8122 (withQuirks 2 (withRegs [(1, 0xF3), (2, 0x3C), (15, 9)]))).reg 15 = 9 := by decide +kernel

theorem test_xorVxVy :
    (run 0x8123 (withRegs [(1, 0xFF), (2, 0x0F), (15, 9)])).reg 1 = 0xF0 ∧
    (run 0x8113 (withRegs [(1, 0xFF), (15, 9)])).reg 1 = 0 := by decide +kernel

theorem test_addVxVy :
    (run 0x8124 (withRegs [(1, 0xC8), (2, 0x64)])).reg 1 = 0x2C ∧
    (run 0x8124 (withRegs [(1, 0xC8), (2, 0x64)])).reg 15 = 1 ∧
    (run 0x8124 (withRegs [(1, 0x7F), (2, 0x80), (15, 9)])).reg 15 = 0 := by decide +kernel

/-- `add v1 vf` and `add vf v1`. -/
theorem test_addVxVy_flag_register :
    (run 0x81F4 (withRegs [(1, 0xFF), (15, 1)])).reg 1 = 0 ∧
    (run 0x8F14 (withRegs [(15, 0xF0), (1, 0x20)])).reg 15 = 0x10 := by decide +kernel

theorem test_subVxVy :
    (run 0x8125 (withRegs [(1, 0x10), (2, 0x20), (15, 9)])).reg 1 = 0xF0 ∧
    (run 0x8125 (withRegs [(1, 0x10), (2, 0x20), (15, 9)])).reg 15 = 0 ∧
    (run 0x8115 (withRegs [(1, 0x33)])).reg 15 = 1 := by decide +kernel

/-- `sub vf v1`: the result remains. -/
theorem test_subVxVy_flag_register : (run 0x8F15 (withRegs [(15, 5), (1, 7)])).reg 15 = 0xFE := by
  decide +kernel

theorem test_subnVxVy :
    (run 0x8127 (withRegs [(1, 5), (2, 7)])).reg 1 = 2 ∧ (run 0x8127 (withRegs [(1, 5), (2, 7)])).reg 15 = 1 ∧
    (run 0x8127 (withRegs [(1, 1), (15, 9)])).reg 15 = 0 := by decide +kernel

/-- `shr v1 v2` with both settings of `shiftVxOnly`, bit 0 of the quirks. -/
theorem test_shrVxVy :
    (run 0x8126 (withRegs [(2, 5)])).reg 1 = 2 ∧ (run 0x8126 (withRegs [(2, 5)])).reg 15 = 1 ∧
    (run 0x8126 (withRegs [(2, 5)])).reg 2 = 5 := by decide +kernel

theorem test_shrVxVy_quirk :
    (run 0x8126 (withQuirks 1 (withRegs [(2, 5), (15, 9)]))).reg 1 = 0 ∧
    (run 0x8126 (withQuirks 1 (withRegs [(2, 5), (15, 9)]))).reg 15 = 0 := by decide +kernel

theorem test_shlVxVy :
    (run 0x812E (withRegs [(2, 0xFF)])).reg 1 = 0xFE ∧ (run 0x812E (withRegs [(2, 0xFF)])).reg 15 = 1 ∧
    (run 0x812E (withRegs [(2, 0x40), (15, 9)])).reg 15 = 0 := by decide +kernel

/-- `shl vf v1`: the result remains. -/
theorem test_shlVxVy_flag_register : (run 0x8F1E (withRegs [(1, 0x81)])).reg 15 = 2 := by decide +kernel

theorem test_ldVxKk : (run 0x6FAB State.reset).reg 15 = 0xAB := by decide +kernel

theorem test_addVxKk :
    (run 0x7102 (withRegs [(1, 0xFF)])).reg 1 = 1 ∧ (run 0x7102 (withRegs [(1, 0xFF)])).reg 15 = 0 := by
  decide +kernel

/-- A byte of the stream is consumed whatever the mask; the high bits are masked. The drawn byte is free:
the test holds for every value of it. -/
theorem test_rnd :
    (run 0xC300 (withRegs [(3, 0x77)])).reg 3 = 0 ∧ (run 0xC300 State.reset).rndIndex = 1 := by
  have h : ∀ b : Byte, b &&& 0#8 = 0#8 := by decide +kernel
  exact ⟨h _, rfl⟩

/-! ### Draw and display (table 2.6) -/

/-- D1, S10. -/
theorem test_drw :
    let t := run 0xD011 (((withRegs [(0, 5), (1, 2)]).setI 0x208).storeBytes 0x208 [0x80])
    allSet t [(5, 2)] ∧ allClear t [(4, 2), (6, 2), (5, 1), (5, 3), (2, 5)] ∧ t.reg 15 = 0 ∧
      t.frameWait = true := by decide +kernel

/-- D3: glyph A at the corner is clipped; D3w: it wraps under bit 5 of the quirks. -/
theorem test_drw_corner :
    let s := (withRegs [(0, 62), (1, 30)]).setI 0x032
    let t := run 0xD015 s
    let u := run 0xD015 (withQuirks 32 s)
    allSet t [(62, 30), (63, 30), (62, 31)] ∧
      allClear t [(63, 31), (0, 30), (1, 30), (62, 0), (64, 30), (65, 30), (62, 32)] ∧
      allSet u [(62, 30), (63, 30), (0, 30), (1, 30), (62, 31), (1, 31), (62, 0), (63, 0), (0, 0), (1, 0),
        (62, 1), (1, 1), (62, 2), (1, 2)] ∧ allClear u [(63, 31), (0, 31), (0, 1), (2, 30), (62, 3)] := by
  decide +kernel

/-- D12. -/
theorem test_cls : allClear (run 0x00E0 (withPixels [(3, 0), (127, 63)] State.reset)) [(3, 0), (127, 63)] := by
  decide +kernel

/-- D13: the hidden pixel is kept. -/
theorem test_high :
    (run 0x00FF (withPixels [(100, 50)] State.reset)).hires = true ∧
    allSet (run 0x00FF (withPixels [(100, 50)] State.reset)) [(100, 50)] := by decide +kernel

theorem test_low : (run 0x00FE (State.reset.setHires true)).hires = false := by decide +kernel

/-- D14, D15: bit 4 of the quirks. -/
theorem test_scd :
    let s := withPixels [(3, 0), (3, 30)] State.reset
    allSet (run 0x00C2 s) [(3, 2)] ∧ allClear (run 0x00C2 s) [(3, 0), (3, 30), (3, 31), (3, 32)] ∧
      allSet (run 0x00C2 (withQuirks 16 s)) [(3, 1), (3, 31)] := by decide +kernel

/-- D17, D20. -/
theorem test_scr :
    let t := run 0x00FB ((withPixels [(0, 0), (125, 7)] State.reset).setHires true)
    let u := run 0x00FB (withPixels [(63, 5), (64, 5)] State.reset)
    allSet t [(4, 0)] ∧ allClear t [(0, 0), (125, 7)] ∧ allClear u [(63, 5), (67, 5)] ∧ allSet u [(64, 5)] := by
  decide +kernel

/-- D18, D19. -/
theorem test_scl :
    let s := withPixels [(5, 2), (3, 9)] State.reset
    let t := run 0x00FC s
    allSet t [(1, 2)] ∧ allClear t [(5, 2), (3, 9)] ∧ allSet (run 0x00FC (withQuirks 16 s)) [(3, 2), (1, 9)] := by
  decide +kernel

/-! ### Keys and timers (table 2.7) -/

/-- K1, K2, K3. -/
theorem test_skp :
    (run 0xE29E ((withRegs [(2, 7)]).setKeyBit 7 true)).pc = 0x204 ∧ (run 0xE29E (withRegs [(2, 7)])).pc = 0x202 ∧
    (run 0xE29E ((withRegs [(2, 0x17)]).setKeyBit 7 true)).pc = 0x202 := by decide +kernel

/-- K4, K5. -/
theorem test_sknp :
    (run 0xE2A1 ((withRegs [(2, 0x17)]).setKeyBit 7 true)).pc = 0x204 ∧
    (run 0xE2A1 ((withRegs [(2, 7)]).setKeyBit 7 true)).pc = 0x202 := by decide +kernel

/-- K6. -/
theorem test_ldVxK :
    (run 0xF30A (withRegs [(3, 0x55)])).keyWait = true ∧ (run 0xF30A (withRegs [(3, 0x55)])).keyReg = 3 ∧
    (run 0xF30A (withRegs [(3, 0x55)])).reg 3 = 0x55 := by decide +kernel

/-- K7, K8: a release does not resume, a press does. -/
theorem test_setKey :
    let t := after (step (withInputs [.setKey 0xB false] (State.reset.awaitKey 3)))
    let u := after (step (withInputs [.setKey 0xB true] (State.reset.awaitKey 3)))
    t.keyWait = true ∧ u.keyWait = false ∧ u.reg 3 = 0xB ∧ u.pressed 0xB = true := by decide +kernel

/-- T1. -/
theorem test_ldDtVx : (run 0xF015 (withRegs [(0, 7)])).dt = 7 := by decide +kernel

/-- T2, T3, T6. -/
theorem test_stepFrame :
    let t := after (step (withInputs [.stepFrame] (((State.reset.setDt 7).setSt 1).setFrameWait true)))
    t.dt = 6 ∧ t.st = 0 ∧ t.frameWait = false ∧ (after (step (withInputs [.stepFrame] t))).st = 0 := by
  decide +kernel

/-- T5. -/
theorem test_ldVxDt : (run 0xF107 (State.reset.setDt 0x3C)).reg 1 = 0x3C := by decide +kernel

/-- T6. -/
theorem test_ldStVx : (run 0xF418 (withRegs [(4, 2)])).st = 2 := by decide +kernel

/-- Q1. -/
theorem test_setQuirks : (after (step (withInputs [.setQuirks 8] State.reset))).loadStoreIAdd = true := by
  decide +kernel

/-! ### Index and memory (table 2.8) -/

/-- M1. -/
theorem test_ldI : (run 0xAFFF State.reset).i = 0xFFF := by decide +kernel

/-- M2, M3. -/
theorem test_addIVx :
    (run 0xF21E ((withRegs [(2, 1)]).setI 0xFFF)).i = 0x1000 ∧
    (run 0xF21E ((withRegs [(2, 1)]).setI 0xFFF)).reg 15 = 0 ∧
    (run 0xF21E ((withRegs [(2, 2)]).setI 0xFFFF)).i = 1 := by decide +kernel

/-- M4, M5, S8. -/
theorem test_ldFVx :
    (run 0xF329 (withRegs [(3, 0x0A)])).i = 0x32 ∧ (run 0xF329 (withRegs [(3, 0x1F)])).i = 0x4B ∧
    (run 0xF329 (withRegs [(3, 0x1F)])).reg 3 = 0x0F := by decide +kernel

/-- M8, S7. -/
theorem test_ldBVx :
    let t := run 0xF033 ((withRegs [(0, 199)]).setI 0x300)
    t.memByte 0x300 = 1 ∧ t.memByte 0x301 = 9 ∧ t.memByte 0x302 = 9 := by decide +kernel

/-- M9: the address wraps. -/
theorem test_ldBVx_wraps :
    let t := run 0xF033 ((withRegs [(0, 255)]).setI 0xFFE)
    t.memByte 0xFFE = 2 ∧ t.memByte 0xFFF = 5 ∧ t.memByte 0 = 5 := by decide +kernel

/-- M10, M11: bit 3 of the quirks. -/
theorem test_ldMemVx :
    let s := (withRegs [(0, 0xAA), (1, 0x55), (2, 9)]).setI 0x400
    let t := run 0xF155 s
    t.memByte 0x400 = 0xAA ∧ t.memByte 0x401 = 0x55 ∧ t.memByte 0x402 = 0 ∧ t.i = 0x400 ∧
      (run 0xF155 (withQuirks 8 s)).i = 0x402 := by decide +kernel

/-- M12: the address wraps. -/
theorem test_ldMemVx_wraps :
    let t := run 0xF155 (withQuirks 8 ((withRegs [(0, 1), (1, 2)]).setI 0xFFF))
    t.memByte 0xFFF = 1 ∧ t.memByte 0 = 2 ∧ t.i = 0x1001 := by decide +kernel

/-- M13, shortened to three registers. -/
theorem test_ldVxMem :
    let t := run 0xF265 (((withRegs [(3, 0x77)]).setI 0x400).storeBytes 0x400 [0x10, 0x11, 0x12, 0x13])
    t.reg 0 = 0x10 ∧ t.reg 1 = 0x11 ∧ t.reg 2 = 0x12 ∧ t.reg 3 = 0x77 ∧ t.i = 0x400 := by decide +kernel

/-! ### Load (table 2.9) -/

/-- L4. -/
theorem test_load :
    let s := (withStack 9 0x123 (withPixels [(3, 3)] State.reset)).setHires true
    let t := after (step (withInputs [.load [0x12, 0x00] 63] s))
    t.loadResult = .loadOk ∧ t.sp.val = 0 ∧ t.hires = false ∧ allClear t [(3, 3)] ∧ t.q = 63 ∧
      t.memByte 0x200 = 0x12 ∧ t.memByte 0x201 = 0 ∧ t.memByte 0x202 = 0 ∧ t.memByte 0x1FF = 0 ∧
      t.memByte 0x04F = 0x80 ∧ t.memByte 0x050 = 0 := by decide +kernel

/-- L2, L3, S12: the largest program and one byte more. -/
theorem test_load_length :
    (load (List.replicate 3584 0x11) 0 State.reset).loadResult = .loadOk ∧
    (load (List.replicate 3585 0x11) 0 State.reset).loadResult = .loadFail := by
  rw [loaded_of_le (by rw [List.length_replicate]), loadRejected_of_lt (by rw [List.length_replicate]; decide)]
  exact ⟨rfl, rfl⟩

/-! ### Witnesses: for each statement with hypotheses, a state and operands that meet all of them -/

/-- A step from this state performs `stepInstruction` and runs the given word. -/
def ready (w : Nat) : State := State.reset.withFetchWord 16 w

theorem witness_EncodeOfDecodeGivesWordBack : decode 0x8124 = .ok (.addVxVy 1 2) := by decide

theorem witness_OpcodeTableRowsAreDisjoint :
    rowMatches 0x8124 (opcodeTable[23]'(by decide)) = true ∧ (23 : Nat) < opcodeTable.length := by decide

/-- Boundary words of each clause: the last excluded and the first included. -/
theorem witness_UndecodableWordsAreSixFamilies :
    decode 0x00BF = .error .unknown0 ∧ decode 0x00D0 = .error .unknown0 ∧ decode 0x0FFF = .error .unknown0 ∧
    decode 0x5001 = .error .unknown5 ∧ decode 0x800F = .error .unknown8 ∧ decode 0x900F = .error .unknown9 ∧
    decode 0xE09D = .error .unknownE ∧ decode 0xF066 = .error .unknownF := by decide

theorem witness_StepRunsDecodedInstruction :
    let s := ready 0x6005
    s.nextOp = .stepInstruction ∧ s.loadResult = .loadOk ∧ s.keyWait = false ∧ s.frameWait = false ∧
      decode (s.memByte s.pc.toNat ++ s.memByte (s.pc.toNat + 1)) = .ok (.ldVxKk 0 5) := by decide +kernel

theorem witness_SuspendedStepChangesNothing :
    let s := State.reset.awaitKey 3
    let t := State.reset.setFrameWait true
    (s.nextOp = .stepInstruction ∧ s.loadResult = .loadOk ∧ s.keyWait = true) ∧
    (t.nextOp = .stepInstruction ∧ t.loadResult = .loadOk ∧ t.frameWait = true) := by decide +kernel

theorem witness_UndecodableWordReportsDecodeFailure :
    let s := State.reset
    s.nextOp = .stepInstruction ∧ s.loadResult = .loadOk ∧ s.keyWait = false ∧ s.frameWait = false ∧
      decode (s.memByte s.pc.toNat ++ s.memByte (s.pc.toNat + 1)) = .error .unknown0 := by decide +kernel

theorem witness_StackFailuresOnlyAdvancePc :
    let s := withStack 16 0 (ready 0x2FFF)
    let t := ready 0x00EE
    (s.nextOp = .stepInstruction ∧ s.loadResult = .loadOk ∧ s.keyWait = false ∧ s.frameWait = false ∧
      s.fetchWord = 0x2#4 ++ 0xFFF#12 ∧ s.sp.val = 16) ∧
    (t.nextOp = .stepInstruction ∧ t.loadResult = .loadOk ∧ t.keyWait = false ∧ t.frameWait = false ∧
      t.fetchWord = 0x00EE#16 ∧ t.sp.val = 0) := by decide +kernel

/-- Each clause: suspended, undecodable, a call at 15 and at 16 entries, a return at 1 and at 0, and any
other instruction. -/
theorem witness_StepResultIsFailureExactlyWhenListed :
    (State.reset.nextOp = .stepInstruction ∧ State.reset.loadResult = .loadOk) ∧
    (after (step (State.reset.awaitKey 0))).result = .ok ∧
    (after (step State.reset)).result = .decodeFailure ∧
    (run 0x2000 (withStack 15 0 State.reset)).result = .ok ∧
    (run 0x2000 (withStack 16 0 State.reset)).result = .stackOverflow ∧
    (run 0x00EE (withStack 1 0 State.reset)).result = .ok ∧
    (run 0x00EE State.reset).result = .stackUnderflow ∧
    (run 0x6000 State.reset).result = .ok := by decide +kernel

/-- A loaded core, a rejected `load` with another `load` to come, and one with none. -/
theorem witness_OnlyRejectedLoadStopsAStep :
    let s : State := { State.reset with loadResult := .loadFail }
    State.reset.loadResult = .loadOk ∧ (withInputs [.load [] 0] s).nextOp = .load [] 0 ∧
      s.loadResult = .loadFail ∧ ∀ p q, s.nextOp ≠ .load p q := by
  exact ⟨rfl, rfl, rfl, fun _ _ h => by cases h⟩

theorem witness_FetchSeesLatestStore :
    Memory.wf State.reset.mem = true ∧ 1 ≤ (1#4).toNat ∧ 1 ≤ (15#4).toNat := by decide

/-- A running core, and one that waits for a key and gets a press. -/
theorem witness_ExecutionStateFollowsTransitionTable :
    let s := withInputs [.setKey 5 true] (State.reset.awaitKey 3)
    (State.reset.loadResult = .loadOk ∧ ¬ (State.reset.keyWait = true ∧ State.reset.frameWait = true) ∧
      ∀ p q, State.reset.nextOp = .load p q → p.length ≤ 3584) ∧
    (s.loadResult = .loadOk ∧ ¬ (s.keyWait = true ∧ s.frameWait = true) ∧
      (∀ p q, s.nextOp = .load p q → p.length ≤ 3584) ∧ s.execState = .awaitingKey ∧
      s.nextOp = .setKey 5 true) := by
  exact ⟨⟨rfl, by decide, fun _ _ h => (by cases h)⟩, rfl, by decide, fun _ _ h => (by cases h), rfl, rfl⟩

theorem witness_InvariantKeptByEveryStep : Inv (ready 0xD011) ∧ ∃ t, step (ready 0xD011) = .next t := by
  refine ⟨⟨by decide +kernel, fun _ => by decide⟩, ?_⟩
  rw [step_stepInstruction (by rfl) (by rfl),
    stepInstruction_ok (s := (ready 0xD011).takeOp) (i := .drw 0 1 1) (by rfl) (by decide +kernel)]
  exact ⟨_, rfl⟩

/-- A display that differs only outside the rectangle, in the pixels next to it. -/
theorem witness_LowResInstructionsDoNotSeeHiddenPixels :
    State.reset.hires = false ∧
    (∀ px py, px < 64 → py < 32 →
      FrameBuffer.pixel (FrameBuffer.tabulate fun qx qy => decide (qx = 64 ∨ qy = 32)) px py =
        State.reset.pixel px py) ∧
    FrameBuffer.pixel (FrameBuffer.tabulate fun qx qy => decide (qx = 64 ∨ qy = 32)) 64 0 = true := by
  refine ⟨rfl, fun px py h1 h2 => ?_, by decide +kernel⟩
  rw [FrameBuffer.pixel_tabulate]
  refine Eq.trans ?_ (FrameBuffer.pixel_clear px py).symm
  have h3 : ¬ (px = 64 ∨ py = 32) := by omega
  simp [h3]

theorem witness_MemoryReadAfterWrite :
    Memory.wf [] = true ∧ Memory.wf [(0, 0x11), (4095, 0x22)] = true := by decide

theorem witness_EqualBytesMakeEqualMemories :
    Memory.wf [(0, 0x11)] = true ∧ Memory.wf (Memory.write (Memory.write [] 5 1) 0 0x11) = true ∧
    ∀ a, a < 4096 → Memory.read [(0, 0x11)] a = Memory.read [(0, 0x11)] a :=
  ⟨by decide, by decide, fun _ _ => rfl⟩

/-- The empty program and the longest. -/
theorem witness_LoadResetsEveryElement :
    (withInputs [.load [] 0] State.reset).inputs = .load [] 0 :: [] ∧
    ([] : List Byte).length ≤ 3584 ∧ (List.replicate 3584 (1 : Byte)).length ≤ 3584 :=
  ⟨rfl, by decide, by rw [List.length_replicate]⟩

/-- A program one byte too long, followed by a tick, and by the longest that loads. -/
theorem witness_RejectedLoadLeavesOnlyLoad :
    3584 < (List.replicate 3585 (1 : Byte)).length ∧ (∀ p q, HostOp.stepFrame ≠ .load p q) ∧
    (List.replicate 3584 (1 : Byte)).length ≤ 3584 ∧
    ∃ s : State, s.inputs = .load (List.replicate 3585 1) 0 :: .stepFrame :: [] := by
  exact ⟨by rw [List.length_replicate]; decide, fun _ _ h => (by cases h),
    by rw [List.length_replicate], withInputs _ State.reset, rfl⟩

theorem witness_StepFrameTicksTimers :
    State.reset.loadResult = .loadOk ∧ (withInputs [.stepFrame] State.reset).inputs = .stepFrame :: [] :=
  ⟨rfl, rfl⟩

theorem witness_TimersSaturateAfterTicks :
    (ticks 3 (State.reset.setDt 2)).dt = 0 ∧ (3 : Nat) ≠ 0 := by decide +kernel

/-- Both clauses: a press that resolves a wait, and a press while none is set. -/
theorem witness_SetKeyUpdatesKeyAndEndsWait :
    let s := withInputs [.setKey 15 true] (State.reset.awaitKey 15)
    let t := withInputs [.setKey 0 true] State.reset
    (s.loadResult = .loadOk ∧ s.inputs = .setKey 15 true :: [] ∧ s.keyWait = true) ∧
    (t.loadResult = .loadOk ∧ t.inputs = .setKey 0 true :: [] ∧ ¬ (true = true ∧ t.keyWait = true)) := by
  exact ⟨⟨rfl, rfl, rfl⟩, rfl, rfl, by decide⟩

theorem witness_SetQuirksReplacesQuirks :
    (withInputs [.setQuirks 63] State.reset).loadResult = .loadOk ∧
    (withInputs [.setQuirks 63] State.reset).inputs = .setQuirks 63 :: [] := ⟨rfl, rfl⟩

theorem witness_KeyWaitLastsUntilPress :
    let s := withInputs (List.replicate 3 .stepInstruction ++ [.setKey 7 true]) (State.reset.awaitKey 0)
    s.loadResult = .loadOk ∧ s.keyWait = true ∧
      s.inputs = List.replicate 3 .stepInstruction ++ .setKey 7 true :: [] := ⟨rfl, rfl, rfl⟩

theorem witness_FrameWaitLastsUntilTick :
    let s := withInputs (List.replicate 3 .stepInstruction ++ [.stepFrame]) (State.reset.setFrameWait true)
    s.loadResult = .loadOk ∧ s.frameWait = true ∧
      s.inputs = List.replicate 3 .stepInstruction ++ .stepFrame :: [] := ⟨rfl, rfl, rfl⟩

/-- The last free entry, and none free. -/
theorem witness_CallPushesPc :
    (withStack 15 0 State.reset).sp.val < 16 ∧ (withStack 16 0 State.reset).sp.val = 16 := by decide

/-- One entry, and none. -/
theorem witness_ReturnPopsPc : 0 < (withStack 1 0 State.reset).sp.val ∧ State.reset.sp.val = 0 := by decide

/-- Sixteen nested calls on the empty stack. -/
theorem witness_NestedCallsReturnBalanced :
    State.reset.sp.val + ((List.replicate 15 ((0x202#16, 0x206#12) : Word × Addr)).length + 1) ≤ 16 := by
  decide

theorem witness_ShiftsSetFlagToBitShiftedOut :
    (129 : Nat) = ((withRegs [(2, 0x81)]).reg (if (withRegs [(2, 0x81)]).q.getLsbD 0 = true then 1 else 2)).toNat := by
  decide +kernel

/-- A covered pixel that was set, and a sprite that covers only clear pixels. -/
theorem witness_DrawInvertsCoveredPixels :
    (∃ px py, (State.reset.setFb (FrameBuffer.tabulate fun _ _ => true)).covers 0 1 1 px py ∧
      (State.reset.setFb (FrameBuffer.tabulate fun _ _ => true)).pixel px py = true) ∧
    (∀ px py, State.reset.covers 0 1 1 px py → State.reset.pixel px py = false) ∧
    State.reset.covers 0 1 1 0 0 ∧ ¬ State.reset.covers 0 1 1 64 0 := by
  refine ⟨⟨0, 0, ⟨by decide, by decide, 0, 0, by decide, by decide, by decide +kernel, rfl, rfl⟩,
    by decide +kernel⟩, fun px py _ => FrameBuffer.pixel_clear px py,
    ⟨by decide, by decide, 0, 0, by decide, by decide, by decide +kernel, rfl, rfl⟩, ?_⟩
  rintro ⟨h, -⟩
  exact absurd h (by decide)

theorem witness_SecondDrawUndoesFirst :
    (0 : Nibble) ≠ vf ∧ (1 : Nibble) ≠ vf ∧
    ∃ px py, State.reset.covers 0 1 1 px py ∧ State.reset.pixel px py = false :=
  ⟨by decide, by decide, 0, 0, ⟨by decide, by decide, 0, 0, by decide, by decide, by decide +kernel, rfl, rfl⟩,
    FrameBuffer.pixel_clear 0 0⟩

theorem witness_ModeSwitchSetsFlag :
    State.reset.params.modeSwitchClears = false ∧
    ({ State.reset with params := { defaultParams with modeSwitchClears := true } } : State).params.modeSwitchClears
      = true := ⟨rfl, rfl⟩

/-- Both resolutions, with and without the halving. -/
theorem witness_ScrollDownMovesRows :
    let s := withQuirks 16 State.reset
    (64 = if s.hires then 128 else 64) ∧ (32 = if s.hires then 64 else 32) ∧
    (7 = if s.q.getLsbD 4 = true ∧ s.hires = false then (15#4).toNat / 2 else (15#4).toNat) ∧
    (128 = if (s.setHires true).hires then 128 else 64) ∧ (64 = if (s.setHires true).hires then 64 else 32) ∧
    (15 = if (s.setHires true).q.getLsbD 4 = true ∧ (s.setHires true).hires = false then (15#4).toNat / 2
      else (15#4).toNat) := by decide +kernel

/-- Both resolutions, with and without the halving. -/
theorem witness_HorizontalScrollsMoveColumns :
    let s := withQuirks 16 State.reset
    (64 = if s.hires then 128 else 64) ∧ (32 = if s.hires then 64 else 32) ∧
    (2 = if s.q.getLsbD 4 = true ∧ s.hires = false then s.params.scrollHDist / 2
      else s.params.scrollHDist) ∧
    (128 = if (s.setHires true).hires then 128 else 64) ∧ (64 = if (s.setHires true).hires then 64 else 32) ∧
    (4 = if (s.setHires true).q.getLsbD 4 = true ∧ (s.setHires true).hires = false
      then (s.setHires true).params.scrollHDist / 2 else (s.setHires true).params.scrollHDist) ∧
    (4 = if State.reset.q.getLsbD 4 = true ∧ State.reset.hires = false then State.reset.params.scrollHDist / 2
      else State.reset.params.scrollHDist) := by decide +kernel

/-- Both clauses at the boundary: key 15 pressed, and the absent key 16. -/
theorem witness_KeySkipsFollowKeyState :
    let s := (withRegs [(2, 15), (3, 16)]).setKeyBit 15 true
    (True ↔ ∃ h : (s.reg 2).toNat < 16, s.keys[(s.reg 2).toNat] = true) ∧
    (False ↔ ∃ h : (s.reg 3).toNat < 16, s.keys[(s.reg 3).toNat] = true) := by
  refine ⟨⟨fun _ => ⟨by decide +kernel, by decide +kernel⟩, fun _ => trivial⟩, fun h => h.elim, ?_⟩
  rintro ⟨h, -⟩
  exact absurd h (by decide +kernel)

/-- The host ticks, presses, changes the quirks and steps; and the host only steps. -/
theorem witness_RunOverLastsUntilLoad :
    let s := withInputs [.stepFrame, .setKey 15 true, .setQuirks 1, .stepInstruction] (ready 0x1200)
    (s.runOver = true ∧ ∀ op ∈ s.inputs.take 4, ∀ p q, op ≠ .load p q) ∧
    ((ready 0x1200).runOver = true ∧ ∀ op ∈ (ready 0x1200).inputs.take 3, op = .stepInstruction) := by
  refine ⟨⟨by decide +kernel, ?_⟩, by decide +kernel, by decide +kernel⟩
  rintro op hop p q rfl
  simp [withInputs] at hop

theorem witness_BcdStoresThreeDigits : Memory.wf State.reset.mem = true := rfl

theorem witness_BlockStoreWritesRegisters : Memory.wf (ready 0xFF55).mem = true := by decide +kernel

theorem witness_BlockLoadUndoesBlockStore : Memory.wf (ready 0xFF65).mem = true := by decide +kernel

end Sys2Proof.Tests
end

section
/-! PROOF. What an instruction can change, said once: the frame of every update of the state, and of `exec` (10_state.md, the summary table's column "written by"). -/

namespace Sys2Proof.Machine

/-! The frames of the updates that have none in Laws/Ops.lean. -/

theorem State.setI_frame (s : State) (w : Word) : Frame [.index] s (s.setI w) := by
  intro p hp
  cases p <;> simp_all [Kept]

theorem State.setPc_frame (s : State) (w : Word) : Frame [.pc] s (s.setPc w) := by
  intro p hp
  cases p <;> simp_all [Kept]

theorem State.setDt_frame (s : State) (b : Byte) : Frame [.delayTimer] s (s.setDt b) := by
  intro p hp
  cases p <;> simp_all [Kept]

theorem State.setSt_frame (s : State) (b : Byte) : Frame [.soundTimer] s (s.setSt b) := by
  intro p hp
  cases p <;> simp_all [Kept]

theorem State.storeBytes_frame (s : State) (a : Nat) (bs : List Byte) :
    Frame [.memory] s (s.storeBytes a bs) := by
  intro p hp
  cases p <;> simp_all [Kept]

theorem State.setFb_frame (s : State) (fb : FrameBuffer) : Frame [.pixels] s (s.setFb fb) := by
  intro p hp
  cases p <;> simp_all [Kept]

theorem State.setHires_frame (s : State) (b : Bool) : Frame [.hires] s (s.setHires b) := by
  intro p hp
  cases p <;> simp_all [Kept]

theorem State.setFrameWait_frame (s : State) (b : Bool) : Frame [.frameLatch] s (s.setFrameWait b) := by
  intro p hp
  cases p <;> simp_all [Kept]

theorem State.awaitKey_frame (s : State) (r : Nibble) : Frame [.keyLatch] s (s.awaitKey r) := by
  intro p hp
  cases p <;> simp_all [Kept]

theorem State.setResult_frame (s : State) (r : StepResult) : Frame [.result] s (s.setResult r) := by
  intro p hp
  cases p <;> simp_all [Kept]

theorem State.push_frame (s : State) (w : Word) (h : s.sp.val < 16) :
    Frame [.stack, .sp] s (s.push w h) := by
  intro p hp
  cases p <;> simp_all [Kept]

theorem State.drop_frame (s : State) : Frame [.sp] s s.drop := by
  intro p hp
  cases p <;> simp_all [Kept]

theorem State.consumeRnd_frame (s : State) : Frame [.rndStream] s s.consumeRnd := by
  intro p hp
  cases p <;> simp_all [Kept]

/-- Two framed changes in a row stay within a frame that allows the parts of both. -/
theorem Frame.trans_mono {a b c : List Part} {s t u : State} (h : Frame a s t) (h' : Frame b t u)
    (ha : a ⊆ c := by simp [writesOf]) (hb : b ⊆ c := by simp [writesOf]) : Frame c s u :=
  (h.mono ha).trans (h'.mono hb)

theorem State.switchMode_frame (s : State) (b : Bool) : Frame [.hires, .pixels] s (s.switchMode b) := by
  unfold State.switchMode
  split
  · exact (s.setHires_frame b).trans_mono (State.setFb_frame _ _)
  · exact (s.setHires_frame b).mono (by decide)

/-- `CALL` pushes and jumps, or only raises. -/
theorem execCall_frame (nnn : Addr) (s : State) :
    ∃ t, execCall nnn s = .next t ∧ Frame [.pc, .stack, .sp, .result] s t := by
  unfold execCall
  split
  · next h => exact ⟨_, rfl, (s.push_frame s.pc h).trans_mono (State.setPc_frame _ _)⟩
  · exact ⟨_, rfl, (s.setResult_frame _).mono (by decide)⟩

/-- `RET` pops and jumps, or only raises. -/
theorem execRet_frame (s : State) : ∃ t, execRet s = .next t ∧ Frame [.pc, .sp, .result] s t := by
  unfold execRet
  split
  · exact ⟨_, rfl, s.drop_frame.trans_mono (State.setPc_frame _ _)⟩
  · exact ⟨_, rfl, (s.setResult_frame _).mono (by decide)⟩

/-- Every instruction answers a next state, in which only the parts `writesOf` gives it may differ. -/
theorem exec_frame (i : Instr) (s : State) : ∃ t, exec i s = .next t ∧ Frame (writesOf i) s t := by
  cases i with
  | cls => exact ⟨_, rfl, s.setFb_frame _⟩
  | scr | scl | scd _ => exact ⟨_, rfl, s.scrollWith_frame _⟩
  | low | high => exact ⟨_, rfl, s.switchMode_frame _⟩
  | ret => exact execRet_frame s
  | call nnn => exact execCall_frame nnn s
  | jp _ | jpV0 _ => exact ⟨_, rfl, s.setPc_frame _⟩
  | skp _ | sknp _ | seVxVy _ _ | sneVxVy _ _ | seVxKk _ _ | sneVxKk _ _ =>
    exact ⟨_, rfl, s.skipIf_frame _⟩
  | ldVxDt _ | ldVxVy _ _ | ldVxKk _ _ | addVxKk _ _ => exact ⟨_, rfl, s.setReg_frame _ _⟩
  | orVxVy _ _ | andVxVy _ _ | xorVxVy _ _ => exact ⟨_, rfl, s.writeLogic_frame _ _⟩
  | addVxVy _ _ | subVxVy _ _ | subnVxVy _ _ | shrVxVy _ _ | shlVxVy _ _ =>
    exact ⟨_, rfl, s.writeFlagged_frame _ _ _ _⟩
  | ldVxK x => exact ⟨_, rfl, s.awaitKey_frame x⟩
  | ldDtVx _ => exact ⟨_, rfl, s.setDt_frame _⟩
  | ldStVx _ => exact ⟨_, rfl, s.setSt_frame _⟩
  | ldI _ | addIVx _ => exact ⟨_, rfl, s.setI_frame _⟩
  | ldFVx _ => exact ⟨_, rfl, (s.setReg_frame _ _).trans_mono (State.setI_frame _ _)⟩
  | ldBVx _ => exact ⟨_, rfl, s.storeBytes_frame _ _⟩
  | ldMemVx _ => exact ⟨_, rfl, (s.storeBytes_frame _ _).trans_mono (State.setI_frame _ _)⟩
  | ldVxMem _ => exact ⟨_, rfl, (s.loadRegs_frame _).trans_mono (State.setI_frame _ _)⟩
  | rnd _ _ => exact ⟨_, rfl, s.consumeRnd_frame.trans_mono (State.setReg_frame _ _ _)⟩
  | drw _ _ _ =>
    have drawn : ∀ fb r b, Frame [.regs, .pixels] s ((s.setFb fb).setReg r b) :=
      fun fb r b => (s.setFb_frame fb).trans_mono (State.setReg_frame _ r b)
    exact ⟨_, rfl, (drawn _ _ _).trans_mono (State.setFrameWait_frame _ _)⟩

end Sys2Proof.Machine
end

section
/-! PROOF. The invariant (10_state.md R36): it holds at reset and every host operation keeps it. -/

namespace Sys2Proof.Machine

/-- No instruction may write both latches. -/
theorem writesOf_one_latch (i : Instr) : .keyLatch ∉ writesOf i ∨ .frameLatch ∉ writesOf i := by
  cases i <;> simp [writesOf]

/-- An instruction started with both latches clear does not leave both set. -/
theorem exec_latches {i : Instr} {s t : State} (h : exec i s = .next t) (hk : s.keyWait = false)
    (hf : s.frameWait = false) : ¬ (t.keyWait = true ∧ t.frameWait = true) := by
  obtain ⟨t', ht', frame⟩ := exec_frame i s
  obtain rfl := Host.Outcome.next.inj (h.symm.trans ht')
  rintro ⟨htk, htf⟩
  rcases writesOf_one_latch i with hi | hi
  · have hkept : t.keyWait = s.keyWait := (frame _ hi).1
    exact Bool.false_ne_true (hk.symm.trans (hkept.symm.trans htk))
  · have hkept : t.frameWait = s.frameWait := frame _ hi
    exact Bool.false_ne_true (hf.symm.trans (hkept.symm.trans htf))

/-- A suspended core and an undecodable word leave memory and the latches alone; an instruction runs only
with both latches clear. -/
theorem stepInstruction_inv {s t : State} (hs : Inv s) (h : stepInstruction s = .next t) : Inv t := by
  obtain ⟨hwf, hlatch⟩ := hs
  cases hsusp : s.suspended with
  | true =>
    rw [stepInstruction_suspended hsusp] at h
    obtain rfl := Host.Outcome.next.inj h
    exact ⟨hwf, hlatch⟩
  | false =>
    cases hd : decode s.fetchWord with
    | error e =>
      rw [stepInstruction_error hsusp hd] at h
      obtain rfl := Host.Outcome.next.inj h
      exact ⟨hwf, hlatch⟩
    | ok i =>
      rw [stepInstruction_ok hsusp hd] at h
      obtain ⟨hk, hf⟩ := Bool.or_eq_false_iff.mp hsusp
      refine ⟨?_, fun _ => exec_latches h hk hf⟩
      rcases exec_mem h with hm | ⟨bs, hm⟩
      · rw [hm]
        exact hwf
      · rw [hm]
        exact Memory.wf_writeBytes _ _ hwf

theorem stepFrame_inv {s : State} (hs : Inv s) : Inv (stepFrame s) :=
  ⟨hs.1, fun _ h => Bool.false_ne_true h.2⟩

theorem setKey_inv {s : State} (hs : Inv s) (code : Nibble) (pressed : Bool) :
    Inv (setKey code pressed s) := by
  unfold setKey
  split
  · exact ⟨hs.1, fun _ h => Bool.false_ne_true h.1⟩
  · exact hs

/-- A load needs no invariant before it: it replaces memory, and either clears the latches or leaves the
state undefined. -/
theorem load_inv (program : List Byte) (q : Quirks) (s : State) : Inv (load program q s) := by
  rcases Nat.lt_or_ge 3584 program.length with hlen | hlen
  · rw [loadRejected_of_lt hlen]
    refine ⟨?_, fun h => by cases h⟩
    rw [loadRejected_mem]
    exact wf_unspecifiedMem _
  · rw [loaded_of_le hlen]
    exact ⟨Memory.wf_image _ _, fun _ h => Bool.false_ne_true h.1⟩

/-- An operation that answers a next state was not refused. -/
theorem State.eq_next_of_ifLoaded {s t : State} {a : Answer} (h : s.ifLoaded a = .next t) :
    a = .next t := by
  cases hl : s.loadResult with
  | loadOk => rwa [State.ifLoaded_ok hl] at h
  | loadFail =>
    rw [State.ifLoaded_fail hl] at h
    cases h

theorem runHostOp_inv {op : HostOp} {s t : State} (hs : Inv s) (h : runHostOp op s = .next t) :
    Inv t := by
  cases op with
  | load program q =>
    obtain rfl := Host.Outcome.next.inj h
    exact load_inv program q s
  | stepInstruction => exact stepInstruction_inv hs (State.eq_next_of_ifLoaded h)
  | stepFrame =>
    obtain rfl := Host.Outcome.next.inj (State.eq_next_of_ifLoaded h)
    exact stepFrame_inv hs
  | setKey code pressed =>
    obtain rfl := Host.Outcome.next.inj (State.eq_next_of_ifLoaded h)
    exact setKey_inv hs code pressed
  | setQuirks q =>
    obtain rfl := Host.Outcome.next.inj (State.eq_next_of_ifLoaded h)
    exact hs

/-- Settles O17: a step is one host operation on the state with that operation taken off the list, and
each of the five keeps the invariant. -/
theorem invariantKeptByEveryStep : Obligations.InvariantKeptByEveryStep :=
  fun s _ hs h => runHostOp_inv (s := s.takeOp) hs h

/-- Settles O18: the memory of the reset state lists nothing and `KEYWAIT` is clear. -/
theorem invariantAtReset : Obligations.InvariantAtReset :=
  ⟨Memory.wf_nil, fun _ h => Bool.false_ne_true h.1⟩

end Sys2Proof.Machine
end

section
/-! PROOF. The elements of the state after reset (10_state.md R40). -/

namespace Sys2Proof.Machine

/-- An empty memory reads as the default image. -/
theorem Memory.read_nil (a : Nat) : Memory.read [] a = resetByte (a % 4096) := rfl

theorem State.pressed_reset (k : Byte) : State.reset.pressed k = false := by
  unfold State.pressed
  split
  · exact Vector.getElem_replicate _
  · rfl

/-- The font lies at 0x000 (70_reset_and_hazards.md R242). -/
theorem State.memByte_reset_font {a : Nat} (ha : a < 80) :
    State.reset.memByte a = State.reset.params.font.toList.getD a 0 := by
  have hread : State.reset.memByte a = resetByte (a % 4096) := Memory.read_nil a
  rw [hread, Nat.mod_eq_of_lt (by omega)]
  rfl

/-- Past the font every byte is 0. -/
theorem State.memByte_reset_zero {a : Nat} (ha : 80 ≤ a) (ha' : a < 4096) :
    State.reset.memByte a = 0 := by
  have hread : State.reset.memByte a = resetByte (a % 4096) := Memory.read_nil a
  rw [hread, Nat.mod_eq_of_lt ha']
  exact List.getD_eq_default _ _ ha

/-- Settles O22: the fields by their definition, the arrays and memory by the lemmas above. -/
theorem resetHoldsLoadValues : Obligations.ResetHoldsLoadValues := by
  unfold Obligations.ResetHoldsLoadValues
  refine ⟨?regs, rfl, rfl, rfl, ?stack, rfl, rfl, State.pressed_reset, rfl, rfl, rfl, rfl, rfl,
    FrameBuffer.pixel_clear, rfl, rfl, fun _ => State.memByte_reset_font,
    fun _ => State.memByte_reset_zero, rfl, rfl, rfl, rfl, rfl, rfl⟩
  case regs => exact fun r => Vector.getElem_replicate r.isLt
  case stack => exact fun j hj => Vector.getElem_replicate hj

end Sys2Proof.Machine
end

section
/-! PROOF. In low-res the pixels outside the 64 by 32 rectangle are hidden (10_state.md R38, D13): instructions that do not write the display do not read it, and those that do look at the active rectangle only. -/

namespace Sys2Proof.Machine

/-! Instructions that leave the display alone give the same next state over any other display. -/

@[simp] theorem State.setFb_setFb (s : State) (fb fb' : FrameBuffer) :
    (s.setFb fb).setFb fb' = s.setFb fb' := rfl

theorem State.skipIf_setFb (s : State) (fb : FrameBuffer) (c : Bool) :
    (s.setFb fb).skipIf c = (s.skipIf c).setFb fb := by
  cases c <;> rfl

theorem State.loadRegs_setFb (s : State) (fb : FrameBuffer) (count : Nat) :
    (s.setFb fb).loadRegs count = (s.loadRegs count).setFb fb := by
  unfold State.loadRegs
  induction count with
  | zero => rfl
  | succ k ih =>
    simp only [List.range_succ, List.foldl_append, List.foldl_cons, List.foldl_nil, ih]
    rfl

theorem execCall_setFb {nnn : Addr} {s t : State} (h : execCall nnn s = .next t) (fb : FrameBuffer) :
    execCall nnn (s.setFb fb) = .next (t.setFb fb) := by
  unfold execCall at h ⊢
  by_cases hsp : s.sp.val < 16
  · rw [dif_pos hsp] at h
    rw [dif_pos (show (s.setFb fb).sp.val < 16 from hsp), ← Host.Outcome.next.inj h]
    rfl
  · rw [dif_neg hsp] at h
    rw [dif_neg (show ¬ (s.setFb fb).sp.val < 16 from hsp), ← Host.Outcome.next.inj h]
    rfl

theorem execRet_setFb {s t : State} (h : execRet s = .next t) (fb : FrameBuffer) :
    execRet (s.setFb fb) = .next (t.setFb fb) := by
  unfold execRet at h ⊢
  by_cases hsp : 0 < s.sp.val
  · rw [dif_pos hsp] at h
    rw [dif_pos (show 0 < (s.setFb fb).sp.val from hsp), ← Host.Outcome.next.inj h]
    rfl
  · rw [dif_neg hsp] at h
    rw [dif_neg (show ¬ 0 < (s.setFb fb).sp.val from hsp), ← Host.Outcome.next.inj h]
    rfl

/-- An instruction that may not write the pixels does not read them either. -/
theorem exec_setFb {i : Instr} {s t : State} (hi : .pixels ∉ writesOf i) (h : exec i s = .next t)
    (fb : FrameBuffer) : exec i (s.setFb fb) = .next (t.setFb fb) := by
  cases i with
  | cls | scr | scl | scd _ | low | high | drw _ _ _ => exact absurd hi (by simp [writesOf])
  | call nnn => exact execCall_setFb h fb
  | ret => exact execRet_setFb h fb
  | skp _ | sknp _ | seVxVy _ _ | sneVxVy _ _ | seVxKk _ _ | sneVxKk _ _ =>
    rw [← Host.Outcome.next.inj h]
    exact congrArg _ (State.skipIf_setFb s fb _)
  | orVxVy _ _ | andVxVy _ _ | xorVxVy _ _ =>
    rw [← Host.Outcome.next.inj h]
    exact congrArg _ (State.writeLogic_withFb s fb _ _)
  | addVxVy _ _ | subVxVy _ _ | subnVxVy _ _ | shrVxVy _ _ | shlVxVy _ _ =>
    rw [← Host.Outcome.next.inj h]
    exact congrArg _ (State.writeFlagged_withFb s fb _ _ _ _)
  | ldVxMem x =>
    rw [← Host.Outcome.next.inj h]
    exact congrArg (fun u => Host.Outcome.next (u.setI (s.blockI x))) (State.loadRegs_setFb s fb _)
  | ldVxDt _ | ldVxK _ | ldDtVx _ | ldStVx _ | addIVx _ | ldFVx _ | ldBVx _ | ldMemVx _
  | ldVxVy _ _ | jp _ | ldVxKk _ _ | addVxKk _ _ | ldI _ | jpV0 _ | rnd _ _ =>
    rw [← Host.Outcome.next.inj h]
    rfl

/-! Instructions that write the display. -/

/-- The two displays agree in the low-res rectangle. -/
def SameVisible (s s' : State) : Prop :=
  ∀ px py, px < 64 → py < 32 → s'.pixel px py = s.pixel px py

/-- What `LowResInstructionsDoNotSeeHiddenPixels` says of the next states `t` and `t'` of two states `s`
and `s'`: they differ in hidden pixels only, which are cleared in both or as before in both. -/
structure HiddenUnseen (s s' t t' : State) : Prop where
  rest : t' = t.setFb t'.fb
  visible : SameVisible t t'
  hidden : (∀ px py, t.pixel px py = false) ∧ (∀ px py, t'.pixel px py = false) ∨
    ∀ px py, ¬ (px < 64 ∧ py < 32) → t.pixel px py = s.pixel px py ∧ t'.pixel px py = s'.pixel px py

/-- No pixel was written in either state. -/
theorem HiddenUnseen.of_kept {s s' t t' : State} (hv : SameVisible s s') (ht' : t' = t.setFb t'.fb)
    (hk : ∀ px py, t.pixel px py = s.pixel px py) (hk' : ∀ px py, t'.pixel px py = s'.pixel px py) :
    HiddenUnseen s s' t t' where
  rest := ht'
  visible px py hx hy := by rw [hk, hk', hv px py hx hy]
  hidden := Or.inr fun px py _ => ⟨hk px py, hk' px py⟩

/-- The whole storage was cleared in both states. -/
theorem HiddenUnseen.of_clear (s s' t : State) :
    HiddenUnseen s s' (t.setFb .clear) (t.setFb .clear) where
  rest := rfl
  visible _ _ _ _ := rfl
  hidden := Or.inl ⟨FrameBuffer.pixel_clear, FrameBuffer.pixel_clear⟩

theorem State.switchMode_hiddenUnseen {s : State} {fb : FrameBuffer}
    (hv : SameVisible s (s.setFb fb)) (b : Bool) :
    HiddenUnseen s (s.setFb fb) (s.switchMode b) ((s.setFb fb).switchMode b) := by
  cases hc : s.params.modeSwitchClears with
  | true =>
    have clears : ∀ fb, (s.setFb fb).switchMode b = (s.setHires b).setFb .clear := fun _ => if_pos hc
    rw [clears fb, show s.switchMode b = _ from clears s.fb]
    exact HiddenUnseen.of_clear _ _ _
  | false =>
    have keeps : ∀ fb, (s.setFb fb).switchMode b = (s.setHires b).setFb fb :=
      fun _ => if_neg (by simp [hc])
    rw [keeps fb, show s.switchMode b = _ from keeps s.fb]
    exact HiddenUnseen.of_kept hv rfl (fun _ _ => rfl) (fun _ _ => rfl)

theorem State.width_lowRes {s : State} (hl : s.hires = false) : s.width = 64 := by
  simp [State.width, hl]

theorem State.height_lowRes {s : State} (hl : s.hires = false) : s.height = 32 := by
  simp [State.height, hl]

/-- A scroll looks at the rectangle only when its new pixels do. -/
theorem State.scrollWith_hiddenUnseen {s : State} {fb : FrameBuffer} {f f' : Nat → Nat → Bool}
    (hl : s.hires = false) (hf : ∀ px py, px < 64 → py < 32 → f' px py = f px py) :
    HiddenUnseen s (s.setFb fb) (s.scrollWith f) ((s.setFb fb).scrollWith f') where
  rest := by simp only [State.scrollWith, State.setFb_setFb, State.setFb_fb]
  visible px py hx hy := by
    simp [State.pixel_scrollWith, State.width_lowRes hl, State.height_lowRes hl, hx, hy, hf px py hx hy]
  hidden := Or.inr fun px py h => by
    simp [State.pixel_scrollWith, State.width_lowRes hl, State.height_lowRes hl, h]

theorem State.lt_of_covers_lowRes {s : State} (hl : s.hires = false) {x y n : Nibble} {px py : Nat}
    (h : s.covers x y n px py) : px < 64 ∧ py < 32 := by
  obtain ⟨hx, hy, -⟩ := h
  exact ⟨by rwa [State.width_lowRes hl] at hx, by rwa [State.height_lowRes hl] at hy⟩

/-- The pixels a sprite covers do not depend on the display it is drawn over. -/
theorem State.drawSprite_setFb_drawn (s : State) (fb : FrameBuffer) (x y n : Nibble) :
    Drawn fb (s.covers x y n) ((s.setFb fb).drawSprite x y n) :=
  State.drawSprite_drawn (s.setFb fb) x y n

theorem State.drawSprite_flag_setFb {s : State} {fb : FrameBuffer} (hl : s.hires = false)
    (hv : SameVisible s (s.setFb fb)) (x y n : Nibble) :
    ((s.setFb fb).drawSprite x y n).2 = (s.drawSprite x y n).2 := by
  rw [Bool.eq_iff_iff, (s.drawSprite_setFb_drawn fb x y n).collision,
    (s.drawSprite_drawn x y n).collision]
  refine exists_congr fun px => exists_congr fun py => and_congr_right fun hc => ?_
  obtain ⟨hx, hy⟩ := State.lt_of_covers_lowRes hl hc
  exact iff_of_eq (congrArg (· = true) (hv px py hx hy))

theorem State.drawSprite_visible_setFb {s : State} {fb : FrameBuffer}
    (hv : SameVisible s (s.setFb fb)) (x y n : Nibble) {px py : Nat} (hx : px < 64) (hy : py < 32) :
    FrameBuffer.pixel ((s.setFb fb).drawSprite x y n).1 px py =
      FrameBuffer.pixel (s.drawSprite x y n).1 px py := by
  have d := s.drawSprite_drawn x y n
  have d' := s.drawSprite_setFb_drawn fb x y n
  by_cases hc : s.covers x y n px py
  · rw [d.covered px py hc, d'.covered px py hc]
    exact congrArg _ (hv px py hx hy)
  · rw [d.other px py hc, d'.other px py hc]
    exact hv px py hx hy

theorem execDrw_hiddenUnseen {s : State} {fb : FrameBuffer} (hl : s.hires = false)
    (hv : SameVisible s (s.setFb fb)) (x y n : Nibble) :
    ∃ t t', execDrw x y n s = .next t ∧ execDrw x y n (s.setFb fb) = .next t' ∧
      HiddenUnseen s (s.setFb fb) t t' := by
  refine ⟨_, _, rfl, rfl, ?rest, fun px py => State.drawSprite_visible_setFb hv x y n, Or.inr ?hidden⟩
  case rest =>
    rw [State.drawSprite_flag_setFb hl hv]
    rfl
  case hidden =>
    intro px py h
    have hc : ¬ s.covers x y n px py := fun hc => h (State.lt_of_covers_lowRes hl hc)
    exact ⟨(s.drawSprite_drawn x y n).other px py hc,
      (s.drawSprite_setFb_drawn fb x y n).other px py hc⟩

theorem exec_hiddenUnseen {s : State} {fb : FrameBuffer} (hl : s.hires = false)
    (hv : SameVisible s (s.setFb fb)) (i : Instr) :
    ∃ t t', exec i s = .next t ∧ exec i (s.setFb fb) = .next t' ∧ HiddenUnseen s (s.setFb fb) t t' := by
  by_cases hi : .pixels ∈ writesOf i
  · cases i with
    | cls => exact ⟨_, _, rfl, rfl, HiddenUnseen.of_clear _ _ s⟩
    | low | high => exact ⟨_, _, rfl, rfl, State.switchMode_hiddenUnseen hv _⟩
    | scr =>
      refine ⟨_, _, rfl, rfl, State.scrollWith_hiddenUnseen hl fun px py hx hy => ?_⟩
      exact ite_congr rfl (fun _ => hv _ _ (by omega) hy) fun _ => rfl
    | scl =>
      refine ⟨_, _, rfl, rfl, State.scrollWith_hiddenUnseen hl fun px py hx hy => ?_⟩
      refine ite_congr rfl (fun hin => hv _ _ ?_ hy) fun _ => rfl
      rwa [State.width_lowRes hl] at hin
    | scd n =>
      refine ⟨_, _, rfl, rfl, State.scrollWith_hiddenUnseen hl fun px py hx hy => ?_⟩
      exact ite_congr rfl (fun _ => hv _ _ hx (by omega)) fun _ => rfl
    | drw x y n => exact execDrw_hiddenUnseen hl hv x y n
    | _ => simp [writesOf] at hi
  · obtain ⟨t, ht, frame⟩ := exec_frame i s
    exact ⟨t, t.setFb fb, ht, exec_setFb hi ht fb,
      HiddenUnseen.of_kept hv rfl (frame .pixels hi) (fun _ _ => rfl)⟩

/-- Settles O19: an instruction that may write pixels clears the storage, keeps it, or computes the
rectangle from the rectangle; any other one does not depend on the display. -/
theorem lowResInstructionsDoNotSeeHiddenPixels :
    Obligations.LowResInstructionsDoNotSeeHiddenPixels := by
  intro i s fb' hl hv
  obtain ⟨t, t', ht, ht', h⟩ := exec_hiddenUnseen (fb := fb') hl hv i
  exact ⟨t, t', ht, ht', h.rest, h.visible, h.hidden⟩

end Sys2Proof.Machine
end

section
/-! PROOF. Memory (20_memory.md): a read after a write, memories with equal bytes, and the fetch after a block store. -/

namespace Sys2Proof.Machine

/-- Settles O20: both parts are laws of memory. -/
theorem memoryReadAfterWrite : Obligations.MemoryReadAfterWrite :=
  fun _ a b v hm => ⟨Memory.read_write hm a b v, Memory.wf_write hm a v⟩

/-! Two canonical memories are compared entry by entry, lowest address first. -/

theorem Memory.read_cons_self {k : Nat} (hk : k < 4096) (v : Byte) (m : Memory) :
    Memory.read ((k, v) :: m) k = v := by
  simp [Memory.read, Memory.lookup, Nat.mod_eq_of_lt hk]

theorem Memory.read_cons_of_ne {k a : Nat} (h : k ≠ a % 4096) (v : Byte) (m : Memory) :
    Memory.read ((k, v) :: m) a = Memory.read m a := by
  simp [Memory.read, Memory.lookup, h]

/-- Below its lowest address a canonical memory reads as the default image. -/
theorem Memory.read_of_lt {lo a : Nat} {m : Memory} (hm : Memory.wfFrom lo m = true) (hlo : a < lo)
    (ha : a < 4096) : Memory.read m a = resetByte a := by
  simp [Memory.read, Nat.mod_eq_of_lt ha, Memory.lookup_of_lt hlo hm]

/-- The first entry of a canonical memory is seen: a memory that lists only later addresses reads
differently there. -/
theorem Memory.read_head_ne {lo k : Nat} {v : Byte} {m m' : Memory}
    (hm : Memory.wfFrom lo ((k, v) :: m) = true) (hm' : Memory.wfFrom (k + 1) m' = true) :
    Memory.read ((k, v) :: m) k ≠ Memory.read m' k := by
  obtain ⟨-, hk, hv, -⟩ := (Memory.wfFrom_cons lo k v m).mp hm
  rwa [Memory.read_cons_self hk, Memory.read_of_lt hm' (Nat.lt_succ_self k) hk]

/-- Past an entry both memories list, the rests read the same: below it neither lists anything. -/
theorem Memory.read_tail_eq {k : Nat} {v v' : Byte} {m m' : Memory}
    (hm : Memory.wfFrom (k + 1) m = true) (hm' : Memory.wfFrom (k + 1) m' = true)
    (hr : ∀ a, a < 4096 → Memory.read ((k, v) :: m) a = Memory.read ((k, v') :: m') a) :
    ∀ a, a < 4096 → Memory.read m a = Memory.read m' a := by
  intro a ha
  by_cases hka : a < k + 1
  · rw [Memory.read_of_lt hm hka ha, Memory.read_of_lt hm' hka ha]
  · have hne : k ≠ a % 4096 := by omega
    rw [← Memory.read_cons_of_ne hne v m, ← Memory.read_cons_of_ne hne v' m', hr a ha]

/-- Memories in canonical form from a common lowest address on are determined by their bytes. -/
theorem Memory.eq_of_read_eq {lo : Nat} : {m m' : Memory} → Memory.wfFrom lo m = true →
    Memory.wfFrom lo m' = true → (∀ a, a < 4096 → Memory.read m a = Memory.read m' a) → m = m'
  | [], [], _, _, _ => rfl
  | [], (k, v) :: m', _, hm', hr => by
    obtain ⟨-, hk, -⟩ := (Memory.wfFrom_cons lo k v m').mp hm'
    exact absurd (hr k hk).symm (Memory.read_head_ne hm' (Memory.wfFrom_nil _))
  | (k, v) :: m, [], hm, _, hr => by
    obtain ⟨-, hk, -⟩ := (Memory.wfFrom_cons lo k v m).mp hm
    exact absurd (hr k hk) (Memory.read_head_ne hm (Memory.wfFrom_nil _))
  | (k, v) :: m, (k', v') :: m', hm, hm', hr => by
    obtain ⟨-, hk, hv, htail⟩ := (Memory.wfFrom_cons lo k v m).mp hm
    obtain ⟨-, hk', hv', htail'⟩ := (Memory.wfFrom_cons lo k' v' m').mp hm'
    rcases Nat.lt_trichotomy k k' with hlt | rfl | hlt
    · have hlater := (Memory.wfFrom_cons (k + 1) k' v' m').mpr ⟨hlt, hk', hv', htail'⟩
      exact absurd (hr k hk) (Memory.read_head_ne hm hlater)
    · have hbyte : v = v' := by simpa only [Memory.read_cons_self hk] using hr k hk
      rw [hbyte, Memory.eq_of_read_eq htail htail' (Memory.read_tail_eq htail htail' hr)]
    · have hlater := (Memory.wfFrom_cons (k' + 1) k v m).mpr ⟨hlt, hk, hv, htail⟩
      exact absurd (hr k' hk').symm (Memory.read_head_ne hm' hlater)

/-- Settles O21, by induction on both memories: where their first entries differ, the one with the lower
address is seen by a read. -/
theorem equalBytesMakeEqualMemories : Obligations.EqualBytesMakeEqualMemories :=
  fun _ _ => Memory.eq_of_read_eq

/-! The fetch after a block store. -/

theorem State.memByte_mod (s : State) (a : Nat) : s.memByte (a % 4096) = s.memByte a :=
  Memory.read_mod s.mem a

theorem State.fetchWord_eq_memByte (s : State) :
    s.fetchWord = s.memByte s.pc.toNat ++ s.memByte (s.pc.toNat + 1) := rfl

/-- After a block store of `V[0]` to `V[x]` at `a` the byte at `a + k` is `V[k]`. -/
theorem State.memByte_storeBytes_regsUpTo {s : State} (hm : Memory.wf s.mem = true) (a : Nat)
    {x : Nibble} {k : Nat} (hk : k ≤ x.toNat) :
    (s.storeBytes a (s.regsUpTo x)).memByte (a + k) = s.reg (BitVec.ofNat 4 k) := by
  have hx := x.lt_sixteen
  have hlen := s.regsUpTo_length x
  rw [State.storeBytes_memByte,
    Memory.read_writeBytes_get a _ hm (by omega) (a + k) k (by omega) rfl, State.regsUpTo_get]

/-- Settles O13: addresses are read modulo 4096, and the two fetched bytes are the first two stored. -/
theorem fetchSeesLatestStore : Obligations.FetchSeesLatestStore := by
  constructor
  · intro s
    rw [State.memByte_mod, State.memByte_mod, State.fetchWord_eq_memByte]
  · intro s x hm hx
    refine ⟨_, rfl, ?_⟩
    have hfirst := State.memByte_storeBytes_regsUpTo hm s.i.toNat (Nat.zero_le x.toNat)
    have hsecond := State.memByte_storeBytes_regsUpTo hm s.i.toNat hx
    exact congrArg₂ (· ++ ·) hfirst hsecond

end Sys2Proof.Machine
end

section
/-! PROOF. What an answer of the decoder means, said once (30_encoding.md R75, R78): an instruction's word is the word decoded, and an error names the family the word lies in. -/

namespace Sys2Proof

/-! The fields of a word as numbers. -/

theorem Word.op_toNat (w : Word) : w.op.toNat = w.toNat / 4096 := by
  simp only [Word.op, BitVec.extractLsb'_toNat, Nat.shiftRight_eq_div_pow]
  omega

/-- The leading nibble of a word, as the number R78 tells the families by. -/
theorem Word.lead_of_op {w : Word} {a : Nibble} (h : w.op = a) : w.toNat / 4096 = a.toNat := by
  rw [← w.op_toNat, h]

theorem Word.x_toNat (w : Word) : w.x.toNat = w.toNat / 256 % 16 := by
  simp only [Word.x, BitVec.extractLsb'_toNat, Nat.shiftRight_eq_div_pow]

theorem Word.y_toNat (w : Word) : w.y.toNat = w.toNat / 16 % 16 := by
  simp only [Word.y, BitVec.extractLsb'_toNat, Nat.shiftRight_eq_div_pow]

theorem Word.n_toNat (w : Word) : w.n.toNat = w.toNat % 16 := by
  simp only [Word.n, BitVec.extractLsb'_toNat, Nat.shiftRight_zero]

theorem Word.kk_toNat (w : Word) : w.kk.toNat = w.toNat % 256 := by
  simp only [Word.kk, BitVec.extractLsb'_toNat, Nat.shiftRight_zero]

theorem eq_ofNat_of_toNat {len k : Nat} {v : BitVec len} (h : v.toNat = k) :
    v = BitVec.ofNat len k :=
  (BitVec.toNat_eq_nat.mp h).2

/-! A word from the values of its fields. -/

theorem Word.of_nibbles {w : Word} {a b c d : Nibble} (hop : w.op = a) (hx : w.x = b) (hy : w.y = c)
    (hn : w.n = d) : a ++ b ++ c ++ d = w := by
  rw [← hop, ← hx, ← hy, ← hn]
  exact (word_nibbles w).symm

theorem Word.of_byte {w : Word} {a b : Nibble} {k : Byte} (hop : w.op = a) (hx : w.x = b)
    (hkk : w.kk = k) : a ++ b ++ k = w := by
  rw [← hop, ← hx, ← hkk]
  exact (word_byte w).symm

theorem Word.of_addr {w : Word} {a : Nibble} (hop : w.op = a) : a ++ w.nnn = w := by
  rw [← hop]
  exact (word_addr w).symm

/-! What the decoder's answer means. -/

/-- The words each error of the decoder names: the rows of R78. `truncated` names none, since it is
about the number of bytes. -/
def DecodeError.family : DecodeError → Nat → Prop
  | .unknown0, w => w / 4096 = 0 ∧ w / 16 ≠ 0x00C ∧
      w ∉ [0x00E0, 0x00EE, 0x00FB, 0x00FC, 0x00FE, 0x00FF]
  | .unknown5, w => w / 4096 = 0x5 ∧ w % 16 ≠ 0
  | .unknown8, w => w / 4096 = 0x8 ∧ w % 16 ∈ [0x8, 0x9, 0xA, 0xB, 0xC, 0xD, 0xF]
  | .unknown9, w => w / 4096 = 0x9 ∧ w % 16 ≠ 0
  | .unknownE, w => w / 4096 = 0xE ∧ w % 256 ∉ [0x9E, 0xA1]
  | .unknownF, w => w / 4096 = 0xF ∧
      w % 256 ∉ [0x07, 0x0A, 0x15, 0x18, 0x1E, 0x29, 0x33, 0x55, 0x65]
  | .truncated, _ => False

/-- An answer of the decoder is right for a word: the word is the instruction's, or lies in the family
the error names. -/
def AnswerFits (w : Word) : Except DecodeError Instr → Prop
  | .ok i => encode i = w
  | .error e => e.family w.toNat

/-- With leading nibble 0 only the seven words and counts of formats `E` and `N` decode. -/
theorem decode0_fits {w : Word} (hop : w.op = 0x0#4) : AnswerFits w (decode0 w.x w.y w.n) := by
  unfold decode0
  split
  case h_1 hx hy =>
    exact Word.of_nibbles hop (eq_ofNat_of_toNat hx) (eq_ofNat_of_toNat hy) rfl
  case h_2 hx hy hn | h_3 hx hy hn | h_4 hx hy hn | h_5 hx hy hn | h_6 hx hy hn | h_7 hx hy hn =>
    exact Word.of_nibbles hop (eq_ofNat_of_toNat hx) (eq_ofNat_of_toNat hy) (eq_ofNat_of_toNat hn)
  case h_8 hC hE0 hEE hFB hFC hFE hFF =>
    have hx := w.x_toNat
    have hy := w.y_toNat
    have hlead : w.toNat / 4096 = 0 := Word.lead_of_op hop
    refine ⟨hlead, fun hcount => hC (by omega) (by omega), ?_⟩
    simp only [List.mem_cons, List.not_mem_nil, or_false]
    rintro (h | h | h | h | h | h)
    all_goals obtain rfl := eq_ofNat_of_toNat h
    exacts [hE0 rfl rfl rfl, hEE rfl rfl rfl, hFB rfl rfl rfl, hFC rfl rfl rfl, hFE rfl rfl rfl,
      hFF rfl rfl rfl]

theorem decode8_fits {w : Word} (hop : w.op = 0x8#4) : AnswerFits w (decode8 w.x w.y w.n) := by
  unfold decode8
  split
  case h_1 hn | h_2 hn | h_3 hn | h_4 hn | h_5 hn | h_6 hn | h_7 hn | h_8 hn | h_9 hn =>
    exact Word.of_nibbles hop rfl rfl (eq_ofNat_of_toNat hn)
  case h_10 =>
    have hn := w.n_toNat
    refine ⟨Word.lead_of_op hop, ?_⟩
    simp only [List.mem_cons, List.not_mem_nil, or_false]
    simp only [imp_false] at *
    omega

theorem decodeE_fits {w : Word} (hop : w.op = 0xE#4) : AnswerFits w (decodeE w.x w.kk) := by
  unfold decodeE
  split
  case h_1 hkk | h_2 hkk => exact Word.of_byte hop rfl (eq_ofNat_of_toNat hkk)
  case h_3 =>
    refine ⟨Word.lead_of_op hop, ?_⟩
    rw [← w.kk_toNat]
    simp only [List.mem_cons, List.not_mem_nil, or_false]
    simp only [imp_false] at *
    omega

theorem decodeF_fits {w : Word} (hop : w.op = 0xF#4) : AnswerFits w (decodeF w.x w.kk) := by
  unfold decodeF
  split
  case h_1 hkk | h_2 hkk | h_3 hkk | h_4 hkk | h_5 hkk | h_6 hkk | h_7 hkk | h_8 hkk | h_9 hkk =>
    exact Word.of_byte hop rfl (eq_ofNat_of_toNat hkk)
  case h_10 =>
    refine ⟨Word.lead_of_op hop, ?_⟩
    rw [← w.kk_toNat]
    simp only [List.mem_cons, List.not_mem_nil, or_false]
    simp only [imp_false] at *
    omega

/-- The decoder's answer fits every word: said once here, for each leading nibble. -/
theorem decode_fits (w : Word) : AnswerFits w (decode w) := by
  unfold decode
  split
  case h_1 hop => exact decode0_fits (eq_ofNat_of_toNat hop)
  case h_2 hop | h_3 hop | h_11 hop | h_12 hop => exact Word.of_addr (eq_ofNat_of_toNat hop)
  case h_4 hop | h_5 hop | h_7 hop | h_8 hop | h_13 hop =>
    exact Word.of_byte (eq_ofNat_of_toNat hop) rfl rfl
  case h_6 hop | h_10 hop =>
    split
    · next hn => exact Word.of_nibbles (eq_ofNat_of_toNat hop) rfl rfl hn
    · next hn => exact ⟨w.op_toNat.symm.trans hop, fun h => hn (eq_ofNat_of_toNat (w.n_toNat.trans h))⟩
  case h_9 hop => exact decode8_fits (eq_ofNat_of_toNat hop)
  case h_14 hop => exact Word.of_nibbles (eq_ofNat_of_toNat hop) rfl rfl rfl
  case h_15 hop => exact decodeE_fits (eq_ofNat_of_toNat hop)
  case h_16 =>
    have hlt := w.op.lt_sixteen
    simp only [imp_false] at *
    have hop : w.op.toNat = 0xF := by omega
    exact decodeF_fits (eq_ofNat_of_toNat hop)

theorem encode_of_decode {w : Word} {i : Instr} (h : decode w = .ok i) : encode i = w := by
  have hfits := decode_fits w
  rwa [h] at hfits

theorem family_of_decode {w : Word} {e : DecodeError} (h : decode w = .error e) : e.family w.toNat := by
  have hfits := decode_fits w
  rwa [h] at hfits

/-- Settles O2: in each branch of the decoder the word is put together again from the fields it was told by
and the fields handed to the instruction. -/
theorem encodeOfDecodeGivesWordBack : Obligations.EncodeOfDecodeGivesWordBack :=
  fun _ _ => encode_of_decode

end Sys2Proof
end

section
/-! PROOF. The opcode table (30_encoding.md R76) and the decoder: no word matches two rows, an instruction's word matches its own row, and a word of a family of R78 matches none. -/

namespace Sys2Proof

theorem rowMatches_iff {w : Word} {row : Word × Word} :
    rowMatches w row = true ↔ w &&& row.2 = row.1 :=
  beq_iff_eq

/-- A word that matches a row has the pattern's bits where the mask covers them. -/
theorem field_of_rowMatches {w : Word} {row : Word × Word} (h : rowMatches w row = true)
    {start len : Nat} (hmask : row.2.extractLsb' start len = BitVec.allOnes len) :
    w.extractLsb' start len = row.1.extractLsb' start len := by
  rw [← rowMatches_iff.mp h, BitVec.extractLsb'_and, hmask, BitVec.and_allOnes]

/-- Rows that a word both matches have the same bits where both masks cover them. -/
theorem patterns_agree_of_rowMatches {w : Word} {r r' : Word × Word} (h : rowMatches w r = true)
    (h' : rowMatches w r' = true) : r.1 &&& r'.2 = r'.1 &&& r.2 := by
  rw [← rowMatches_iff.mp h, ← rowMatches_iff.mp h', BitVec.and_assoc, BitVec.and_assoc,
    BitVec.and_comm r.2]

/-- Any two rows of the table differ in a bit that both masks cover. -/
theorem opcodeTable_patterns_differ : opcodeTable.Pairwise fun r r' => r.1 &&& r'.2 ≠ r'.1 &&& r.2 := by
  decide

/-- Settles O4: on the bits both masks cover the two patterns would be equal, and the patterns of any
two rows of the table differ there. -/
theorem opcodeTableRowsAreDisjoint : Obligations.OpcodeTableRowsAreDisjoint := by
  intro w j k hj hk hmj hmk
  have hdiffer := List.pairwise_iff_getElem.mp opcodeTable_patterns_differ
  rcases Nat.lt_trichotomy j k with hlt | heq | hlt
  · exact absurd (patterns_agree_of_rowMatches hmj hmk) (hdiffer j k hj hk hlt)
  · exact heq
  · exact absurd (patterns_agree_of_rowMatches hmk hmj) (hdiffer k j hk hj hlt)

/-! A word that matches a row has the pattern's fields where the mask covers them. -/

theorem op_of_rowMatches {w : Word} {row : Word × Word} (h : rowMatches w row = true)
    (hmask : row.2.op = 0xF#4) : w.toNat / 4096 = row.1.toNat / 4096 := by
  have hop : w.op = row.1.op := field_of_rowMatches h hmask
  rw [← w.op_toNat, hop, row.1.op_toNat]

theorem n_of_rowMatches {w : Word} {row : Word × Word} (h : rowMatches w row = true)
    (hmask : row.2.n = 0xF#4) : w.toNat % 16 = row.1.toNat % 16 := by
  have hn : w.n = row.1.n := field_of_rowMatches h hmask
  rw [← w.n_toNat, hn, row.1.n_toNat]

theorem kk_of_rowMatches {w : Word} {row : Word × Word} (h : rowMatches w row = true)
    (hmask : row.2.kk = 0xFF#8) : w.toNat % 256 = row.1.toNat % 256 := by
  have hkk : w.kk = row.1.kk := field_of_rowMatches h hmask
  rw [← w.kk_toNat, hkk, row.1.kk_toNat]

/-- For the row of format `N`, whose mask covers all but the low nibble. -/
theorem upper_of_rowMatches {w : Word} {row : Word × Word} (h : rowMatches w row = true)
    (hmask : row.2 = 0xFFF0#16) : w.toNat / 16 = row.1.toNat / 16 := by
  have hupper : w.extractLsb' 4 12 = row.1.extractLsb' 4 12 :=
    field_of_rowMatches h (by rw [hmask]; rfl)
  have hnum := congrArg BitVec.toNat hupper
  simp only [BitVec.extractLsb'_toNat, Nat.shiftRight_eq_div_pow] at hnum
  omega

/-- For the rows of format `E`, whose mask covers the word. -/
theorem eq_of_rowMatches {w : Word} {row : Word × Word} (h : rowMatches w row = true)
    (hmask : row.2 = 0xFFFF#16) : w = row.1 := by
  rw [← rowMatches_iff.mp h, hmask]
  exact BitVec.and_allOnes.symm

/-- A word of one of the six families matches no row: every row with that leading nibble fixes bits that
the family excludes. (`List.Forall` lets `decide` go through the rows of the table only.) -/
theorem not_rowMatches_of_family {w : Word} {e : DecodeError} (he : e.family w.toNat)
    {row : Word × Word} (hrow : row ∈ opcodeTable) : ¬ rowMatches w row = true := by
  intro hmatch
  have hopMask : ∀ row ∈ opcodeTable, row.2.op = 0xF#4 :=
    List.forall_iff_forall_mem.mp (by decide)
  have hop := op_of_rowMatches hmatch (hopMask row hrow)
  cases e with
  | unknown0 =>
    obtain ⟨hw, hcount, hexact⟩ := he
    have table : ∀ row ∈ opcodeTable, row.1.toNat / 4096 = 0x0 →
        (row.2 = 0xFFFF#16 ∧ row.1.toNat ∈ [0x00E0, 0x00EE, 0x00FB, 0x00FC, 0x00FE, 0x00FF]) ∨
        (row.2 = 0xFFF0#16 ∧ row.1.toNat / 16 = 0x00C) :=
        List.forall_iff_forall_mem.mp (by decide)
    rcases table row hrow (hop.symm.trans hw) with ⟨hmask, hp⟩ | ⟨hmask, hp⟩
    · rw [eq_of_rowMatches hmatch hmask] at hexact
      exact hexact hp
    · exact hcount ((upper_of_rowMatches hmatch hmask).trans hp)
  | unknown5 | unknown9 =>
    obtain ⟨hw, hn⟩ := he
    have table : ∀ row ∈ opcodeTable, row.1.toNat / 4096 = 0x5 ∨ row.1.toNat / 4096 = 0x9 →
        row.2.n = 0xF#4 ∧ row.1.toNat % 16 = 0 :=
        List.forall_iff_forall_mem.mp (by decide)
    obtain ⟨hmask, hp⟩ := table row hrow (by omega)
    exact hn ((n_of_rowMatches hmatch hmask).trans hp)
  | unknown8 =>
    obtain ⟨hw, hn⟩ := he
    have table : ∀ row ∈ opcodeTable, row.1.toNat / 4096 = 0x8 → row.2.n = 0xF#4 ∧
        row.1.toNat % 16 ∉ [0x8, 0x9, 0xA, 0xB, 0xC, 0xD, 0xF] :=
        List.forall_iff_forall_mem.mp (by decide)
    obtain ⟨hmask, hp⟩ := table row hrow (hop.symm.trans hw)
    rw [n_of_rowMatches hmatch hmask] at hn
    exact hp hn
  | unknownE =>
    obtain ⟨hw, hkk⟩ := he
    have table : ∀ row ∈ opcodeTable, row.1.toNat / 4096 = 0xE → row.2.kk = 0xFF#8 ∧
        row.1.toNat % 256 ∈ [0x9E, 0xA1] :=
        List.forall_iff_forall_mem.mp (by decide)
    obtain ⟨hmask, hp⟩ := table row hrow (hop.symm.trans hw)
    rw [kk_of_rowMatches hmatch hmask] at hkk
    exact hkk hp
  | unknownF =>
    obtain ⟨hw, hkk⟩ := he
    have table : ∀ row ∈ opcodeTable, row.1.toNat / 4096 = 0xF → row.2.kk = 0xFF#8 ∧
        row.1.toNat % 256 ∈ [0x07, 0x0A, 0x15, 0x18, 0x1E, 0x29, 0x33, 0x55, 0x65] :=
        List.forall_iff_forall_mem.mp (by decide)
    obtain ⟨hmask, hp⟩ := table row hrow (hop.symm.trans hw)
    rw [kk_of_rowMatches hmatch hmask] at hkk
    exact hkk hp
  | truncated => exact he

/-- The error that a leading nibble leaves possible. -/
def DecodeError.ofLead : Nat → DecodeError
  | 0x0 => .unknown0
  | 0x5 => .unknown5
  | 0x8 => .unknown8
  | 0x9 => .unknown9
  | 0xE => .unknownE
  | _ => .unknownF

/-- The families exclude each other by their leading nibbles. -/
theorem DecodeError.eq_ofLead_of_family {e : DecodeError} {w : Nat} (h : e.family w) :
    e = .ofLead (w / 4096) := by
  cases e with
  | truncated => exact h.elim
  | unknown0 | unknown5 | unknown8 | unknown9 | unknownE | unknownF =>
    rw [h.1]
    rfl

open Laws in
/-- Every instruction's word matches its own row. -/
theorem encode_matches_own_row (i : Instr) : OwnRow.Statement i := by
  cases i
  exacts [OwnRow.cls, OwnRow.ret, OwnRow.scr, OwnRow.scl, OwnRow.low, OwnRow.high, OwnRow.scd _,
    OwnRow.skp _, OwnRow.sknp _, OwnRow.ldVxDt _, OwnRow.ldVxK _, OwnRow.ldDtVx _, OwnRow.ldStVx _,
    OwnRow.addIVx _, OwnRow.ldFVx _, OwnRow.ldBVx _, OwnRow.ldMemVx _, OwnRow.ldVxMem _,
    OwnRow.seVxVy _ _, OwnRow.ldVxVy _ _, OwnRow.orVxVy _ _, OwnRow.andVxVy _ _, OwnRow.xorVxVy _ _,
    OwnRow.addVxVy _ _, OwnRow.subVxVy _ _, OwnRow.shrVxVy _ _, OwnRow.subnVxVy _ _,
    OwnRow.shlVxVy _ _, OwnRow.sneVxVy _ _, OwnRow.jp _, OwnRow.call _, OwnRow.seVxKk _ _,
    OwnRow.sneVxKk _ _, OwnRow.ldVxKk _ _, OwnRow.addVxKk _ _, OwnRow.ldI _, OwnRow.jpV0 _,
    OwnRow.rnd _ _, OwnRow.drw _ _ _]

theorem rowMatches_own_row_of_decode {w : Word} {i : Instr} (h : decode w = .ok i) :
    ∃ hk : i.row < opcodeTable.length, rowMatches w opcodeTable[i.row] = true := by
  obtain ⟨row, hrow, hand⟩ := encode_matches_own_row i
  obtain ⟨hk, rfl⟩ := List.getElem?_eq_some_iff.mp hrow
  rw [encode_of_decode h] at hand
  exact ⟨hk, rowMatches_iff.mpr hand⟩

theorem firstMatch_of_rowMatches {w : Word} {k : Nat} (hk : k < opcodeTable.length)
    (h : rowMatches w opcodeTable[k] = true) : firstMatch w = some k := by
  refine List.findIdx?_eq_some_iff_getElem.mpr ⟨hk, h, fun j hj hmatch => ?_⟩
  exact absurd (opcodeTableRowsAreDisjoint w j k (hj.trans hk) hk hmatch h) hj.ne

theorem firstMatch_of_family {w : Word} {e : DecodeError} (h : e.family w.toNat) :
    firstMatch w = none :=
  List.findIdx?_eq_none_iff.mpr fun _ hrow => Bool.eq_false_iff.mpr (not_rowMatches_of_family h hrow)

/-- A word of a family cannot decode, since its instruction's row would match it; and it meets no other
error, since its leading nibble leaves one. -/
theorem decode_error_iff {w : Word} {e : DecodeError} :
    decode w = .error e ↔ e.family w.toNat := by
  refine ⟨family_of_decode, fun he => ?_⟩
  cases hd : decode w with
  | ok i =>
    obtain ⟨hk, hmatch⟩ := rowMatches_own_row_of_decode hd
    exact absurd hmatch (not_rowMatches_of_family he (List.getElem_mem hk))
  | error e' =>
    rw [DecodeError.eq_ofLead_of_family (family_of_decode hd), DecodeError.eq_ofLead_of_family he]

/-- Settles O3: an instruction's row is the only one its word matches, and an undecodable word lies in a
family that no row matches. -/
theorem decodeIsFirstMatchOfOpcodeTable : Obligations.DecodeIsFirstMatchOfOpcodeTable := by
  refine ⟨rfl, fun w => ?_⟩
  cases hd : decode w with
  | ok i =>
    obtain ⟨hk, hmatch⟩ := rowMatches_own_row_of_decode hd
    exact firstMatch_of_rowMatches hk hmatch
  | error e => exact firstMatch_of_family (family_of_decode hd)

/-- Settles O5: the six families are those of `DecodeError.family`, and no word is `truncated`. -/
theorem undecodableWordsAreSixFamilies : Obligations.UndecodableWordsAreSixFamilies :=
  fun _ => ⟨decode_error_iff, decode_error_iff, decode_error_iff, decode_error_iff, decode_error_iff,
    decode_error_iff, family_of_decode⟩

end Sys2Proof
end

section
/-! PROOF. Fetch and dispatch (40_fetch_dispatch.md): what `stepInstruction` does running and suspended, and the execution state after each operation (R98). -/

namespace Sys2Proof.Machine

/-! The execution states in terms of the latches, and the operations that move between them. -/

theorem State.execState_running_iff {s : State} :
    s.execState = .running ↔ s.keyWait = false ∧ s.frameWait = false := by
  cases hk : s.keyWait <;> cases hf : s.frameWait <;> simp [State.execState, hk, hf]

theorem State.execState_awaitingKey_iff {s : State} :
    s.execState = .awaitingKey ↔ s.keyWait = true := by
  cases hk : s.keyWait <;> cases hf : s.frameWait <;> simp [State.execState, hk, hf]

theorem State.execState_awaitingFrame_iff {s : State} :
    s.execState = .awaitingFrame ↔ s.keyWait = false ∧ s.frameWait = true := by
  cases hk : s.keyWait <;> cases hf : s.frameWait <;> simp [State.execState, hk, hf]

theorem State.suspended_iff {s : State} :
    s.suspended = true ↔ s.keyWait = true ∨ s.frameWait = true := Bool.or_eq_true_iff

theorem State.suspended_false_iff {s : State} :
    s.suspended = false ↔ s.keyWait = false ∧ s.frameWait = false := Bool.or_eq_false_iff

/-- The execution state depends on the two latches only. -/
theorem Frame.execState_eq {changed : List Part} {s t : State} (frame : Frame changed s t)
    (hk : .keyLatch ∉ changed) (hf : .frameLatch ∉ changed) : t.execState = s.execState := by
  have hkey : t.keyWait = s.keyWait := (frame _ hk).1
  have hframe : t.frameWait = s.frameWait := frame _ hf
  rw [State.execState, State.execState, hkey, hframe]

/-- Settles O14: the frame of `exec`. -/
theorem instructionsWriteOnlyTheirParts : Obligations.InstructionsWriteOnlyTheirParts := exec_frame

/-- Settles O7: with both latches clear the step fetches, advances and dispatches. -/
theorem stepRunsDecodedInstruction : Obligations.StepRunsDecodedInstruction := by
  intro s i hop hl hk hf hd
  rw [step_stepInstruction hop hl]
  exact stepInstruction_ok (State.suspended_false_iff.mpr ⟨hk, hf⟩) hd

/-- Settles O8: a suspended step only sets the result. -/
theorem suspendedStepChangesNothing : Obligations.SuspendedStepChangesNothing := by
  intro s hop hl hsusp
  rw [step_stepInstruction hop hl]
  exact stepInstruction_suspended (State.suspended_iff.mpr hsusp)

/-- The body of an instruction in a running core: `LD Vx K` sets the one latch, `DRW` the other, and no
other instruction may write either. -/
theorem exec_execState {s : State} (hrun : s.execState = .running) (i : Instr) :
    ∃ t, exec i s = .next t ∧ t.execState = afterInstruction (.ok i) := by
  obtain ⟨t, ht, frame⟩ := exec_frame i s
  refine ⟨t, ht, ?_⟩
  cases i with
  | ldVxK x =>
    obtain rfl := Host.Outcome.next.inj ht
    exact State.execState_awaitingKey_iff.mpr rfl
  | drw x y n =>
    obtain rfl := Host.Outcome.next.inj ht
    exact State.execState_awaitingFrame_iff.mpr ⟨(State.execState_running_iff.mp hrun).1, rfl⟩
  | _ => exact (frame.execState_eq (by simp [writesOf]) (by simp [writesOf])).trans hrun

theorem stepInstruction_execState (s : State) :
    ∃ t, stepInstruction s = .next t ∧
      t.execState = transition (decode s.fetchWord) s.execState .stepInstruction := by
  cases he : s.execState with
  | awaitingKey =>
    have hk := State.execState_awaitingKey_iff.mp he
    exact ⟨_, stepInstruction_suspended (State.suspended_iff.mpr (.inl hk)), he⟩
  | awaitingFrame =>
    have hf := (State.execState_awaitingFrame_iff.mp he).2
    exact ⟨_, stepInstruction_suspended (State.suspended_iff.mpr (.inr hf)), he⟩
  | running =>
    have hsusp := State.suspended_false_iff.mpr (State.execState_running_iff.mp he)
    cases hd : decode s.fetchWord with
    | error e => exact ⟨_, stepInstruction_error hsusp hd, he⟩
    | ok i =>
      rw [stepInstruction_ok hsusp hd]
      exact exec_execState (s := (s.setPc (s.pc + 2)).setResult .ok) he i

theorem stepFrame_execState (word : Except DecodeError Instr) (s : State) :
    (stepFrame s).execState = transition word s.execState .stepFrame := by
  cases he : s.execState with
  | awaitingKey =>
    have hk := State.execState_awaitingKey_iff.mp he
    exact State.execState_awaitingKey_iff.mpr hk
  | awaitingFrame =>
    exact State.execState_running_iff.mpr ⟨(State.execState_awaitingFrame_iff.mp he).1, rfl⟩
  | running => exact State.execState_running_iff.mpr ⟨(State.execState_running_iff.mp he).1, rfl⟩

theorem setQuirks_execState (word : Except DecodeError Instr) (q : Quirks) (s : State) :
    (setQuirks q s).execState = transition word s.execState (.setQuirks q) := by
  have hkept : (setQuirks q s).execState = s.execState := rfl
  rw [hkept]
  cases s.execState <;> rfl

/-- A press ends the key wait it meets. -/
theorem setKey_press {s : State} (hk : s.keyWait = true) (code : Nibble) :
    setKey code true s = ((s.setKeyBit code true).setReg s.keyReg (nibbleByte code)).endKeyWait := by
  simp [setKey, hk]

/-- A release, or a press outside a key wait, only sets the key. -/
theorem setKey_no_wait {s : State} {pressed : Bool} (h : pressed = false ∨ s.keyWait = false)
    (code : Nibble) : setKey code pressed s = s.setKeyBit code pressed := by
  rcases h with h | h <;> simp [setKey, h]

/-- The press that ends a key wait leaves the core running since no frame wait is pending under it. -/
theorem setKey_execState {s : State} (hlatch : ¬ (s.keyWait = true ∧ s.frameWait = true))
    (word : Except DecodeError Instr) (code : Nibble) (pressed : Bool) :
    (setKey code pressed s).execState = transition word s.execState (.setKey code pressed) := by
  cases he : s.execState with
  | awaitingKey =>
    have hk := State.execState_awaitingKey_iff.mp he
    cases pressed with
    | true =>
      have hf : s.frameWait = false := Bool.eq_false_iff.mpr fun hf => hlatch ⟨hk, hf⟩
      rw [setKey_press hk]
      exact State.execState_running_iff.mpr ⟨rfl, hf⟩
    | false =>
      rw [setKey_no_wait (.inl rfl)]
      exact he
  | awaitingFrame =>
    rw [setKey_no_wait (.inr (State.execState_awaitingFrame_iff.mp he).1)]
    exact he
  | running =>
    rw [setKey_no_wait (.inr (State.execState_running_iff.mp he).1)]
    exact he

theorem nibbleByte_toNat (k : Nibble) : (nibbleByte k).toNat = k.toNat :=
  BitVec.toNat_setWidth_of_le (by decide)

/-- A resolving press writes the key's code to the waiting register. -/
theorem setKey_reg_keyReg {s : State} (hk : s.keyWait = true) (code : Nibble) :
    ((setKey code true s).reg s.keyReg).toNat = code.toNat := by
  rw [setKey_press hk, State.endKeyWait_reg, State.reg_setReg_self, nibbleByte_toNat]

/-- The execution state after one step that does not load too long a program. -/
theorem step_execState {s : State} (hl : s.loadResult = .loadOk)
    (hlatch : ¬ (s.keyWait = true ∧ s.frameWait = true))
    (hlen : ∀ p q, s.nextOp = .load p q → p.length ≤ 3584) :
    ∃ t, step s = .next t ∧ t.execState = transition (decode s.fetchWord) s.execState s.nextOp := by
  cases hop : s.nextOp with
  | load p q =>
    rw [step_load hop, loaded_of_le (hlen p q hop)]
    exact ⟨_, rfl, by cases s.execState <;> rfl⟩
  | stepInstruction =>
    rw [step_stepInstruction hop hl]
    exact stepInstruction_execState s.takeOp
  | stepFrame => exact ⟨_, step_stepFrame hop hl, stepFrame_execState _ s.takeOp⟩
  | setKey code pressed =>
    exact ⟨_, step_setKey hop hl, setKey_execState (s := s.takeOp) hlatch _ code pressed⟩
  | setQuirks q => exact ⟨_, step_setQuirks hop hl, setQuirks_execState _ q s.takeOp⟩

/-- Settles O16: each operation follows its row of the table, and only a press can resolve a key wait. -/
theorem executionStateFollowsTransitionTable : Obligations.ExecutionStateFollowsTransitionTable := by
  intro s hl hlatch hlen
  obtain ⟨t, ht, hexec⟩ := step_execState hl hlatch hlen
  refine ⟨t, ht, hexec, fun code hwait hop => ?_⟩
  obtain rfl := Host.Outcome.next.inj (ht.symm.trans (step_setKey hop hl))
  exact setKey_reg_keyReg (s := s.takeOp) (State.execState_awaitingKey_iff.mp hwait) code

end Sys2Proof.Machine
end

section
/-! PROOF. The decoder reads every instruction back from its word (30_encoding.md R75). -/

namespace Sys2Proof

/-- The decoder takes the operands out of the fields the encoder put them in, format by format. -/
theorem decode_encode (i : Instr) : decode (encode i) = .ok i := by
  cases i with
  | cls | ret | scr | scl | low | high => rfl
  | scd _ => simp [encode, decode, decode0]
  | skp _ | sknp _ => simp [encode, decode, decodeE]
  | ldVxDt _ | ldVxK _ | ldDtVx _ | ldStVx _ | addIVx _ | ldFVx _ | ldBVx _ | ldMemVx _ | ldVxMem _ =>
    simp [encode, decode, decodeF]
  | ldVxVy _ _ | orVxVy _ _ | andVxVy _ _ | xorVxVy _ _ | addVxVy _ _ | subVxVy _ _ | shrVxVy _ _
  | subnVxVy _ _ | shlVxVy _ _ => simp [encode, decode, decode8]
  | seVxVy _ _ | sneVxVy _ _ | drw _ _ _ => simp [encode, decode]
  | jp _ | call _ | ldI _ | jpV0 _ => simp [encode, decode]
  | seVxKk _ _ | sneVxKk _ _ | ldVxKk _ _ | addVxKk _ _ | rnd _ _ => simp [encode, decode]

end Sys2Proof
end

section
/-! PROOF. Jumps, call, return and the register skips (41_control_flow.md): one rule per case of `CALL` and `RET`, the targets as numbers, and the balance of nested calls and returns. -/

namespace Sys2Proof.Machine

/-! The cases of `CALL` and `RET` (R111, R112). -/

theorem exec_call_of_lt {s : State} (h : s.sp.val < 16) (nnn : Addr) :
    exec (.call nnn) s = .next ((s.push s.pc h).setPc (addrWord nnn)) :=
  dif_pos h

theorem exec_call_of_full {s : State} (h : s.sp.val = 16) (nnn : Addr) :
    exec (.call nnn) s = .next (s.setResult .stackOverflow) :=
  dif_neg (by omega)

theorem exec_ret_of_pos {s : State} (h : 0 < s.sp.val) : exec .ret s = .next (s.drop.setPc (s.top h)) :=
  dif_pos h

theorem exec_ret_of_empty {s : State} (h : s.sp.val = 0) :
    exec .ret s = .next (s.setResult .stackUnderflow) :=
  dif_neg (by omega)

/-! Targets and conditions. -/

@[simp] theorem addrWord_toNat (nnn : Addr) : (addrWord nnn).toNat = nnn.toNat :=
  BitVec.toNat_setWidth_of_le (by decide)

@[simp] theorem byteWord_toNat (b : Byte) : (byteWord b).toNat = b.toNat :=
  BitVec.toNat_setWidth_of_le (by decide)

/-- An address and a byte add up to less than 65536, so the sum does not wrap. -/
theorem addrWord_add_byteWord_toNat (nnn : Addr) (b : Byte) :
    (addrWord nnn + byteWord b).toNat = nnn.toNat + b.toNat := by
  have hnnn := nnn.isLt
  have hb := b.isLt
  rw [BitVec.toNat_add, addrWord_toNat, byteWord_toNat]
  omega

theorem addr_topNibble (nnn : Addr) : nnn.extractLsb' 8 4 = BitVec.ofNat 4 (nnn.toNat / 256) := by
  apply BitVec.eq_of_toNat_eq
  rw [BitVec.extractLsb'_toNat, BitVec.toNat_ofNat, Nat.shiftRight_eq_div_pow]

theorem State.skipIf_beq_pc (s : State) (a b : Byte) :
    (s.skipIf (a == b)).pc = if a = b then s.pc + 2 else s.pc := by
  simp [State.skipIf_eq]

theorem State.skipIf_bne_pc (s : State) (a b : Byte) :
    (s.skipIf (a != b)).pc = if a = b then s.pc else s.pc + 2 := by
  simp [State.skipIf_eq]

/-! Nested calls and as many returns. -/

theorem nest_cons_of_exec {s t : State} {back : Word} {target : Addr} {calls : List (Word × Addr)}
    (h : exec (.call target) (s.setPc back) = .next t) :
    nest ((back, target) :: calls) s = nest calls t := by
  simp only [nest, h]

theorem unnest_succ_of_exec {s t : State} (h : exec .ret s = .next t) (k : Nat) :
    unnest (k + 1) s = unnest k t := by
  simp only [unnest, h]

/-- The last of `k + 1` returns starts where the first `k` ended. -/
theorem unnest_succ_last {k : Nat} {s t u : State} (h : unnest k s = .next t)
    (hret : exec .ret t = .next u) : unnest (k + 1) s = .next u := by
  induction k generalizing s with
  | zero =>
    obtain rfl := Host.Outcome.next.inj h
    exact unnest_succ_of_exec hret 0
  | succ k ih =>
    obtain ⟨s', hs', -⟩ := execRet_frame s
    rw [unnest_succ_of_exec hs'] at h ⊢
    exact ih h

/-- The stack of `u` is back where it was in `s`: as many entries in use, the same ones, and nothing else
changed but `PC` and the entries not in use. -/
structure StackRestored (s u : State) : Prop where
  sp_eq : u.sp = s.sp
  stack_eq : ∀ j (hj : j < 16), j < s.sp.val → u.stack[j] = s.stack[j]
  frame : Frame [.pc, .stack, .sp] s u

theorem StackRestored.refl (s : State) : StackRestored s s := ⟨rfl, fun _ _ _ => rfl, Frame.refl _ s⟩

/-- The value of `PC` before is of no account. -/
theorem StackRestored.of_setPc {s u : State} {w : Word} (h : StackRestored (s.setPc w) u) :
    StackRestored s u :=
  ⟨h.sp_eq, h.stack_eq, (s.setPc_frame w).trans_mono h.frame⟩

/-- A return pops what the call pushed, when everything between them restored the stack. -/
theorem exec_ret_after_call {s u : State} {target : Word} (h : s.sp.val < 16)
    (restored : StackRestored ((s.push s.pc h).setPc target) u) :
    ∃ u', exec .ret u = .next u' ∧ u'.pc = s.pc ∧ StackRestored s u' := by
  obtain ⟨hsp, hstack, frame⟩ := restored
  have hval : u.sp.val = s.sp.val + 1 := congrArg Fin.val hsp
  have hpos : 0 < u.sp.val := by omega
  have htop : u.top hpos = s.pc := by
    simpa [State.top, hval] using hstack s.sp.val h (Nat.lt_succ_self _)
  refine ⟨_, exec_ret_of_pos hpos, htop, Fin.ext (by simp [hval]), fun j hj hlt => ?_, ?_⟩
  · simpa [hlt.ne'] using hstack j hj (Nat.lt_succ_of_lt hlt)
  · have called : Frame [.pc, .stack, .sp] s ((s.push s.pc h).setPc target) :=
      (s.push_frame s.pc h).trans_mono (State.setPc_frame _ _)
    have returned : Frame [.pc, .stack, .sp] u (u.drop.setPc (u.top hpos)) :=
      u.drop_frame.trans_mono (State.setPc_frame _ _)
    exact (called.trans frame).trans returned

/-- Nested calls that fit the stack and as many returns restore it, and the last return goes to the return
address of the first call. -/
theorem unnest_nest (calls : List (Word × Addr)) (s : State) (h : s.sp.val + calls.length ≤ 16) :
    ∃ t u, nest calls s = .next t ∧ t.sp.val = s.sp.val + calls.length ∧
      unnest calls.length t = .next u ∧ StackRestored s u ∧ ∀ c ∈ calls.head?, u.pc = c.1 := by
  induction calls generalizing s with
  | nil => exact ⟨s, s, rfl, rfl, rfl, .refl s, by simp⟩
  | cons c calls ih =>
    obtain ⟨back, target⟩ := c
    rw [List.length_cons] at h ⊢
    have hlt : (s.setPc back).sp.val < 16 := by
      rw [State.setPc_sp]
      omega
    have hroom : (((s.setPc back).push back hlt).setPc (addrWord target)).sp.val + calls.length ≤ 16 := by
      simp only [State.setPc_sp, State.push_sp]
      omega
    obtain ⟨t, u, hnest, hsp, hunnest, restored, -⟩ := ih _ hroom
    obtain ⟨u', hret, hpc, restored'⟩ := exec_ret_after_call hlt restored
    refine ⟨t, u', (nest_cons_of_exec (exec_call_of_lt hlt target)).trans hnest, ?_,
      unnest_succ_last hunnest hret, restored'.of_setPc, by simpa using hpc⟩
    simp only [State.setPc_sp, State.push_sp] at hsp
    omega

/-- Settles O36, by induction on the nested calls. -/
theorem nestedCallsReturnBalanced : Obligations.NestedCallsReturnBalanced := by
  intro calls s back target h
  obtain ⟨t, u, hnest, hsp, hunnest, ⟨hsp', hstack, frame⟩, hpc⟩ :=
    unnest_nest ((back, target) :: calls) s h
  exact ⟨t, u, hnest, hsp, hunnest, hpc _ rfl, hsp', hstack, frame⟩

/-- Settles O32. -/
theorem jumpSetsPc : Obligations.JumpSetsPc := fun nnn s =>
  ⟨decode_encode (.jp nnn), _, rfl, addrWord_toNat nnn, s.setPc_frame _⟩

/-- Settles O33. -/
theorem offsetJumpAddsRegister : Obligations.OffsetJumpAddsRegister := by
  intro nnn s
  refine ⟨decode_encode (.jpV0 nnn), _, rfl, ?_, s.setPc_frame _⟩
  rw [← addr_topNibble]
  exact addrWord_add_byteWord_toNat nnn _

/-- Settles O34: a free entry takes the return address; with none free only the result changes. -/
theorem callPushesPc : Obligations.CallPushesPc := by
  intro nnn s
  refine ⟨decode_encode (.call nnn), fun h => ?_, fun h => ?_⟩
  · refine ⟨_, exec_call_of_lt h nnn, by simp, fun j hj hne => ?_, rfl, addrWord_toNat nnn, ?_⟩
    · simp [hne.symm]
    · exact (s.push_frame s.pc h).trans_mono (State.setPc_frame _ _)
  · exact ⟨_, exec_call_of_full h nnn, rfl, s.setResult_frame _⟩

/-- Settles O35: the topmost entry in use goes to `PC`; with none in use only the result changes. -/
theorem returnPopsPc : Obligations.ReturnPopsPc := by
  intro s
  refine ⟨decode_encode .ret, fun h => ?_, fun h => ?_⟩
  · exact ⟨_, exec_ret_of_pos h, rfl, rfl, s.drop_frame.trans_mono (State.setPc_frame _ _)⟩
  · exact ⟨_, exec_ret_of_empty h, rfl, s.setResult_frame _⟩

/-- Settles O37: each of the four is a skip on an equality or an inequality of bytes. -/
theorem registerSkipsAdvancePc : Obligations.RegisterSkipsAdvancePc := fun x y kk s =>
  ⟨⟨decode_encode (.seVxKk x kk), _, rfl, s.skipIf_beq_pc _ _, s.skipIf_frame _⟩,
    ⟨decode_encode (.sneVxKk x kk), _, rfl, s.skipIf_bne_pc _ _, s.skipIf_frame _⟩,
    ⟨decode_encode (.seVxVy x y), _, rfl, s.skipIf_beq_pc _ _, s.skipIf_frame _⟩,
    ⟨decode_encode (.sneVxVy x y), _, rfl, s.skipIf_bne_pc _ _, s.skipIf_frame _⟩⟩

end Sys2Proof.Machine
end

section
/-! PROOF. The register-to-register family 8xy_ (42_alu.md): the results and flags of the model as numbers, and the statements from the rules of the flagged and the logic write. -/

namespace Sys2Proof.Machine

/-! Results as numbers: 8-bit arithmetic modulo 256 (R136). -/

theorem byte_add_eq_ofNat (a b : Byte) : a + b = BitVec.ofNat 8 ((a.toNat + b.toNat) % 256) :=
  eq_ofNat_of_toNat (BitVec.toNat_add a b)

/-- The difference, with 256 added first so that it is not truncated at 0. -/
theorem byte_sub_eq_ofNat (a b : Byte) : a - b = BitVec.ofNat 8 ((256 + a.toNat - b.toNat) % 256) := by
  apply eq_ofNat_of_toNat
  have hb : b.toNat < 256 := b.isLt
  rw [BitVec.toNat_sub]
  omega

theorem byte_shiftRight_one_eq_ofNat (a : Byte) : a >>> 1 = BitVec.ofNat 8 (a.toNat / 2) :=
  eq_ofNat_of_toNat (BitVec.toNat_ushiftRight a 1)

theorem byte_shiftLeft_one_eq_ofNat (a : Byte) : a <<< 1 = BitVec.ofNat 8 (2 * a.toNat % 256) := by
  apply eq_ofNat_of_toNat
  rw [BitVec.toNat_shiftLeft, Nat.shiftLeft_eq, Nat.mul_comm]

/-! Flags as numbers. -/

theorem flagByte_decide (p : Prop) [Decidable p] : flagByte (decide p) = if p then 1 else 0 := by
  simp only [flagByte, decide_eq_true_eq]

theorem carryFlag_eq (a b : Byte) : carryFlag a b = if a.toNat + b.toNat > 255 then 1 else 0 :=
  flagByte_decide _

theorem notBorrowFlag_eq (a b : Byte) : notBorrowFlag a b = if b.toNat ≤ a.toNat then 1 else 0 :=
  flagByte_decide _

/-- Bit `i` of a byte, as a flag, is that binary digit of its number. -/
theorem flagByte_getLsbD (a : Byte) (i : Nat) :
    flagByte (a.getLsbD i) = BitVec.ofNat 8 (a.toNat / 2 ^ i % 2) := by
  rw [BitVec.getLsbD, Nat.testBit_eq_decide_div_mod_eq, flagByte_decide]
  rcases Nat.mod_two_eq_zero_or_one (a.toNat / 2 ^ i) with h | h <;> rw [h] <;> rfl

theorem shrFlag_eq_ofNat (a : Byte) : shrFlag a = BitVec.ofNat 8 (a.toNat % 2) := by
  rw [shrFlag, flagByte_getLsbD, Nat.pow_zero, Nat.div_one]

theorem shlFlag_eq_ofNat (a : Byte) : shlFlag a = BitVec.ofNat 8 (a.toNat / 128) := by
  have htop : a.toNat / 2 ^ 7 < 2 := Nat.div_lt_of_lt_mul a.isLt
  exact (flagByte_getLsbD a 7).trans (congrArg _ (Nat.mod_eq_of_lt htop))

/-- `Q.shiftVxOnly` chooses the register that is shifted. -/
theorem State.shiftOperand_eq (s : State) (x y : Nibble) :
    s.shiftOperand x y = s.reg (if s.q.getLsbD 0 = true then x else y) :=
  (apply_ite s.reg _ x y).symm

/-! The writes, each with its frame. -/

/-- A flagged write, its result and flag in any other spelling. -/
theorem State.writeFlagged_spec (s : State) (order : WriteOrder) (x : Nibble)
    {result result' flag flag' : Byte} (hresult : result = result') (hflag : flag = flag') :
    FlaggedWrite order x result' flag' s (s.writeFlagged order x result flag) ∧
      Frame [.regs] s (s.writeFlagged order x result flag) := by
  subst hresult hflag
  exact ⟨s.writeFlagged_flaggedWrite _ _ _ _, s.writeFlagged_frame _ _ _ _⟩

theorem State.writeLogic_spec (s : State) (x : Nibble) (result : Byte) :
    LogicWrite x result s (s.writeLogic x result) ∧ Frame [.regs] s (s.writeLogic x result) :=
  ⟨s.writeLogic_logicWrite x result, s.writeLogic_frame x result⟩

theorem State.regsKeptBut_setReg (s : State) (x : Nibble) (b : Byte) :
    RegsKeptBut [x] s (s.setReg x b) :=
  fun _ hr => State.reg_setReg_of_ne _ _ _ _ (by simpa using hr)

/-! The statements. -/

/-- Settles O38. -/
theorem moveCopiesRegister : Obligations.MoveCopiesRegister := fun x y s =>
  ⟨decode_encode (.ldVxVy x y), _, rfl, s.reg_setReg_self x _, s.regsKeptBut_setReg x _,
    s.setReg_frame x _⟩

/-- Settles O41: each of the three is a logic write. -/
theorem logicCombinesBits : Obligations.LogicCombinesBits := fun x y s =>
  ⟨⟨decode_encode (.orVxVy x y), _, rfl, s.writeLogic_spec x _⟩,
    ⟨decode_encode (.andVxVy x y), _, rfl, s.writeLogic_spec x _⟩,
    ⟨decode_encode (.xorVxVy x y), _, rfl, s.writeLogic_spec x _⟩⟩

/-- Settles O42: a flagged write of the sum and the carry. -/
theorem addSetsCarryFlag : Obligations.AddSetsCarryFlag := fun x y s =>
  ⟨decode_encode (.addVxVy x y), _, rfl,
    s.writeFlagged_spec _ x (byte_add_eq_ofNat _ _) (carryFlag_eq _ _)⟩

/-- Settles O43: flagged writes of the difference, `SUBN` with the operands exchanged. -/
theorem subtractSetsNotBorrowFlag : Obligations.SubtractSetsNotBorrowFlag := fun x y s =>
  ⟨⟨decode_encode (.subVxVy x y), _, rfl,
      s.writeFlagged_spec _ x (byte_sub_eq_ofNat _ _) (notBorrowFlag_eq _ _)⟩,
    ⟨decode_encode (.subnVxVy x y), _, rfl,
      s.writeFlagged_spec _ x (byte_sub_eq_ofNat _ _) (notBorrowFlag_eq _ _)⟩⟩

/-- Settles O44: flagged writes of the shifted operand and the bit it loses. -/
theorem shiftsSetFlagToBitShiftedOut : Obligations.ShiftsSetFlagToBitShiftedOut := by
  intro x y s b hb
  rw [← State.shiftOperand_eq] at hb
  subst hb
  exact ⟨⟨decode_encode (.shrVxVy x y), _, rfl,
      s.writeFlagged_spec _ x (byte_shiftRight_one_eq_ofNat _) (shrFlag_eq_ofNat _)⟩,
    ⟨decode_encode (.shlVxVy x y), _, rfl,
      s.writeFlagged_spec _ x (byte_shiftLeft_one_eq_ofNat _) (shlFlag_eq_ofNat _)⟩⟩

end Sys2Proof.Machine
end

section
/-! PROOF. The byte-immediate family and the random instruction (43_immediate_random.md), each as one register write. -/

namespace Sys2Proof.Machine

/-- Settles O39: the sum is `BitVec`'s, which wraps. -/
theorem immediateLoadAndAddLeaveFlag : Obligations.ImmediateLoadAndAddLeaveFlag := fun x kk s =>
  ⟨⟨decode_encode (.ldVxKk x kk), _, rfl, s.reg_setReg_self x _, s.regsKeptBut_setReg x _,
      s.setReg_frame x _⟩,
    ⟨decode_encode (.addVxKk x kk), _, rfl,
      by rw [State.reg_setReg_self, BitVec.toNat_add], s.regsKeptBut_setReg x _,
      s.setReg_frame x _⟩⟩

/-- Settles O40: the draw changes the stream's position only, so the registers before the write are
those of `s`. -/
theorem randomMasksNextByte : Obligations.RandomMasksNextByte := fun x kk s =>
  ⟨decode_encode (.rnd x kk), _, rfl, s.consumeRnd.reg_setReg_self x _, rfl,
    s.consumeRnd.regsKeptBut_setReg x _, s.consumeRnd_frame.trans_mono (State.setReg_frame _ x _)⟩

end Sys2Proof.Machine
end

section
/-! PROOF. Draw, clear, display mode and scrolling (44_draw_display.md): each statement reads the pixels of the one state the instruction answers. -/

namespace Sys2Proof.Machine

theorem frame_of_exec {i : Instr} {s t : State} (h : exec i s = .next t) : Frame (writesOf i) s t := by
  obtain ⟨u, hu, frame⟩ := exec_frame i s
  obtain rfl := Host.Outcome.next.inj (hu.symm.trans h)
  exact frame

/-! Draw (R160). `Drawn.collision` says when the flag is set; `VF` holds it as a byte. -/

theorem Drawn.flag_eq_one {fb : FrameBuffer} {C : Nat → Nat → Prop} {acc : FrameBuffer × Bool}
    (d : Drawn fb C acc) (h : ∃ px py, C px py ∧ FrameBuffer.pixel fb px py = true) :
    flagByte acc.2 = 1 := by
  rw [d.collision.mpr h]
  rfl

theorem Drawn.flag_eq_zero {fb : FrameBuffer} {C : Nat → Nat → Prop} {acc : FrameBuffer × Bool}
    (d : Drawn fb C acc) (h : ∀ px py, C px py → FrameBuffer.pixel fb px py = false) :
    flagByte acc.2 = 0 := by
  have hflag : acc.2 = false := by
    rw [← Bool.not_eq_true, d.collision]
    rintro ⟨px, py, hc, hset⟩
    exact absurd (h px py hc) (by simp [hset])
  rw [hflag]
  rfl

/-- Settles O45: the new display and flag are those of `drawSprite`, which `drawSprite_drawn` describes. -/
theorem drawInvertsCoveredPixels : Obligations.DrawInvertsCoveredPixels := by
  intro x y n s
  have drawn := s.drawSprite_drawn x y n
  have hflag : ∀ b, (((s.setFb (s.drawSprite x y n).1).setReg vf b).setFrameWait true).reg vf = b :=
    (s.setFb _).reg_setReg_self vf
  refine ⟨decode_encode (.drw x y n), _, rfl, drawn.covered, drawn.other,
    fun hit => (hflag _).trans (drawn.flag_eq_one hit),
    fun miss => (hflag _).trans (drawn.flag_eq_zero miss), rfl,
    (s.setFb _).regsKeptBut_setReg vf _, frame_of_exec (i := .drw x y n) rfl⟩

/-- What a sprite covers depends on its anchor and on parts that a draw keeps: the memory, `I`, the
display mode and the quirks. -/
theorem State.covers_eq_of_frame {s t : State} (frame : Frame [.regs, .pixels, .frameLatch] s t)
    {x y : Nibble} (hx : t.reg x = s.reg x) (hy : t.reg y = s.reg y) (n : Nibble) :
    t.covers x y n = s.covers x y n := by
  have hi : t.i = s.i := frame .index (by decide)
  have hmem : t.memByte = s.memByte := funext (frame .memory (by decide))
  have hhires : t.hires = s.hires := frame .hires (by decide)
  have hq : t.q = s.q := frame .quirks (by decide)
  funext px py
  simp only [State.covers, State.spriteBit, State.width, State.height, State.spriteWrap, hi, hmem,
    hhires, hq, hx, hy]

/-- Settles O46: both draws cover the same pixels, so the second inverts the inverted ones, and a pixel
that was clear before is set when the second draw meets it. -/
theorem secondDrawUndoesFirst : Obligations.SecondDrawUndoesFirst := by
  intro x y n s hx hy
  obtain ⟨-, t, ht, covered, other, -, -, -, regs, frame⟩ := drawInvertsCoveredPixels x y n s
  obtain ⟨-, u, hu, covered', other', collision, -⟩ := drawInvertsCoveredPixels x y n t
  rw [State.covers_eq_of_frame frame (regs x (by simpa using hx)) (regs y (by simpa using hy)) n]
    at covered' other' collision
  refine ⟨t, u, ht, hu, fun px py => ?_, ?_⟩
  · by_cases hc : s.covers x y n px py
    · rw [covered' px py hc, covered px py hc, Bool.not_not]
    · rw [other' px py hc, other px py hc]
  · rintro ⟨px, py, hc, hclear⟩
    exact collision ⟨px, py, hc, by rw [covered px py hc, hclear, Bool.not_false]⟩

/-! Clear and display mode (R161 to R163). -/

/-- Settles O47. -/
theorem clearScreenClearsAllPixels : Obligations.ClearScreenClearsAllPixels := fun s =>
  ⟨decode_encode .cls, _, rfl, FrameBuffer.pixel_clear, s.setFb_frame _⟩

@[simp] theorem State.switchMode_hires (s : State) (b : Bool) : (s.switchMode b).hires = b := by
  unfold State.switchMode
  split <;> rfl

theorem State.switchMode_frame_of_keeps {s : State} (h : s.params.modeSwitchClears = false) (b : Bool) :
    Frame [.hires] s (s.switchMode b) := by
  simpa [State.switchMode, h] using s.setHires_frame b

theorem State.switchMode_pixel_of_clears {s : State} (h : s.params.modeSwitchClears = true) (b : Bool)
    (px py : Nat) : (s.switchMode b).pixel px py = false := by
  simp [State.switchMode, h]

/-- Settles O48: each of the two is a mode switch. -/
theorem modeSwitchSetsFlag : Obligations.ModeSwitchSetsFlag := fun s =>
  ⟨⟨decode_encode .low, decode_encode .high⟩, _, _, rfl, rfl, s.switchMode_hires false,
    s.switchMode_hires true,
    fun keeps => ⟨State.switchMode_frame_of_keeps keeps false, State.switchMode_frame_of_keeps keeps true⟩,
    fun clears => ⟨fun px py => ⟨State.switchMode_pixel_of_clears clears false px py,
        State.switchMode_pixel_of_clears clears true px py⟩,
      s.switchMode_frame false, s.switchMode_frame true⟩⟩

/-! Scrolling (R164 to R167). -/

theorem State.scrollDist_eq (s : State) (requested : Nat) :
    s.scrollDist requested =
      if s.q.getLsbD 4 = true ∧ s.hires = false then requested / 2 else requested := by
  simp [State.scrollDist, State.legacySchipScroll]

/-- Settles O49. -/
theorem scrollDownMovesRows : Obligations.ScrollDownMovesRows := by
  rintro n s w h d rfl rfl hd
  rw [← State.scrollDist_eq] at hd
  subst hd
  exact ⟨decode_encode (.scd n), _, rfl, s.scrollWith_frame _, s.pixel_scrollWith _⟩

/-- Settles O50. -/
theorem horizontalScrollsMoveColumns : Obligations.HorizontalScrollsMoveColumns := by
  rintro s w h d rfl rfl hd
  rw [← State.scrollDist_eq] at hd
  subst hd
  exact ⟨⟨decode_encode .scr, decode_encode .scl⟩, _, _, rfl, rfl, s.scrollWith_frame _,
    s.scrollWith_frame _, s.pixel_scrollWith _, s.pixel_scrollWith _⟩

end Sys2Proof.Machine
end

section
/-! PROOF. Keys and timers (45_keys_timers.md): the key skips and the copies as single updates, and the key wait over any number of suspended steps up to the press that ends it. -/

namespace Sys2Proof.Machine

/-! Key skips (R180, R181). -/

theorem State.pressed_iff (s : State) (k : Byte) :
    s.pressed k = true ↔ ∃ h : k.toNat < 16, s.keys[k.toNat] = true := by
  unfold State.pressed
  split
  · next h => exact ⟨fun hp => ⟨h, hp⟩, fun ⟨_, hp⟩ => hp⟩
  · next h => exact ⟨nofun, fun ⟨h', _⟩ => absurd h' h⟩

theorem State.skipIf_pc (s : State) (c : Bool) : (s.skipIf c).pc = if c then s.pc + 2 else s.pc := by
  rw [State.skipIf_eq, State.setPc_pc]

/-- Settles O51: each of the two is a skip on `State.pressed` or its negation. -/
theorem keySkipsFollowKeyState : Obligations.KeySkipsFollowKeyState := by
  intro x s p hp
  obtain rfl : p = (s.pressed (s.reg x) = true) := propext (hp.trans (s.pressed_iff _).symm)
  refine ⟨⟨decode_encode (.skp x), _, rfl, fun h => ?_, fun h => ?_, s.skipIf_frame _⟩,
    ⟨decode_encode (.sknp x), _, rfl, fun h => ?_, fun h => ?_, s.skipIf_frame _⟩⟩
  all_goals simp [State.skipIf_pc, h]

/-! Starting the wait, and the timer transfers (R182 to R185). -/

/-- Settles O52. -/
theorem keyReadStartsWait : Obligations.KeyReadStartsWait := fun x s =>
  ⟨decode_encode (.ldVxK x), _, rfl, rfl, rfl, s.awaitKey_frame x⟩

/-- Settles O53: the read is one register write, the others one timer write each. -/
theorem timerTransfersCopy : Obligations.TimerTransfersCopy := fun x s =>
  ⟨⟨decode_encode (.ldVxDt x), _, rfl, s.reg_setReg_self x _, s.regsKeptBut_setReg x _,
      s.setReg_frame x _⟩,
    ⟨decode_encode (.ldDtVx x), _, rfl, rfl, s.setDt_frame _⟩,
    ⟨decode_encode (.ldStVx x), _, rfl, rfl, s.setSt_frame _⟩⟩

/-! Several steps in a row, from the first one and from the last one. -/

theorem steps_succ_of_step {s t : State} (h : step s = .next t) (k : Nat) :
    steps (k + 1) s = steps k t := by
  simp only [steps, h]

/-- The last of `k + 1` steps starts where the first `k` ended. -/
theorem steps_succ_last {k : Nat} {s t u : State} (h : steps k s = .next t) (hlast : step t = .next u) :
    steps (k + 1) s = .next u := by
  induction k generalizing s with
  | zero =>
    obtain rfl := Host.Outcome.next.inj h
    exact steps_succ_of_step hlast 0
  | succ k ih =>
    cases hs : step s with
    | next s' =>
      rw [steps_succ_of_step hs] at h ⊢
      exact ih h
    | fault r => cases r
    | refused r => simp [steps, hs] at h

/-! A suspended core while the host only steps (40_fetch_dispatch.md R91). -/

theorem State.takeOp_frame (s : State) : Frame [.inputs] s s.takeOp := by
  intro p hp
  cases p <;> simp_all [Kept]

/-- However often a suspended core is stepped, only the result and the host's list change. -/
theorem steps_suspended (n : Nat) {s : State} {rest : List HostOp} (hl : s.loadResult = .loadOk)
    (hsusp : s.suspended = true) (hin : s.inputs = List.replicate n .stepInstruction ++ rest) :
    ∃ t, steps n s = .next t ∧ t.inputs = rest ∧ Frame [.result, .inputs] s t := by
  induction n generalizing s with
  | zero => exact ⟨s, rfl, hin, Frame.refl _ s⟩
  | succ n ih =>
    have hstep : step s = .next (s.takeOp.setResult .ok) := by
      rw [step_stepInstruction (s.nextOp_cons _ _ hin) hl]
      exact stepInstruction_suspended hsusp
    have stepped : Frame [.result, .inputs] s (s.takeOp.setResult .ok) :=
      s.takeOp_frame.trans_mono (State.setResult_frame _ _)
    obtain ⟨t, ht, hrest, frame⟩ :=
      ih (s := s.takeOp.setResult .ok) hl hsusp (congrArg List.tail hin)
    exact ⟨t, (steps_succ_of_step hstep n).trans ht, hrest, stepped.trans frame⟩

/-! The press that ends a key wait (48_host_operations.md R202). -/

theorem State.setKeyBit_frame (s : State) (k : Nibble) (b : Bool) : Frame [.keys] s (s.setKeyBit k b) := by
  intro p hp
  cases p <;> simp_all [Kept]

theorem State.endKeyWait_frame (s : State) : Frame [.keyLatch] s s.endKeyWait := by
  intro p hp
  cases p <;> simp_all [Kept]

theorem setKey_press_keyWait {s : State} (hk : s.keyWait = true) (code : Nibble) :
    (setKey code true s).keyWait = false := by
  rw [setKey_press hk, State.endKeyWait_keyWait]

theorem setKey_press_regsKeptBut {s : State} (hk : s.keyWait = true) (code : Nibble) :
    RegsKeptBut [s.keyReg] s (setKey code true s) := by
  rw [setKey_press hk]
  exact (s.setKeyBit code true).regsKeptBut_setReg s.keyReg _

theorem setKey_press_frame {s : State} (hk : s.keyWait = true) (code : Nibble) :
    Frame [.keys, .regs, .keyLatch] s (setKey code true s) := by
  have written : ∀ b, Frame [.keys, .regs] s ((s.setKeyBit code true).setReg s.keyReg b) :=
    fun b => (s.setKeyBit_frame code true).trans_mono (State.setReg_frame _ _ b)
  rw [setKey_press hk]
  exact (written _).trans_mono (State.endKeyWait_frame _)

/-- Settles O30: the suspended steps keep the latch and the registers, so the press meets the wait that
stood before them. -/
theorem keyWaitLastsUntilPress : Obligations.KeyWaitLastsUntilPress := by
  intro n s code rest hl hk hin
  obtain ⟨t, ht, htin, waited⟩ := steps_suspended n hl (State.suspended_iff.mpr (.inl hk)) hin
  obtain ⟨hwait, hreg⟩ := waited .keyLatch (by decide)
  obtain ⟨hload, -⟩ := waited .loadStatus (by decide)
  have hk' : t.takeOp.keyWait = true := hwait.trans hk
  have hpress := step_setKey (t.nextOp_cons _ _ htin) (hload.trans hl)
  have frame : Frame [.keys, .regs, .keyLatch, .result, .inputs] s (setKey code true t.takeOp) :=
    (waited.trans_mono t.takeOp_frame (c := [.result, .inputs])).trans_mono (setKey_press_frame hk' code)
  refine ⟨t, _, ht, waited, steps_succ_last ht hpress, frame .pc (by decide),
    setKey_press_keyWait hk' code, ?_, fun r hr => ?_, frame⟩
  · rw [← hreg]
    exact setKey_reg_keyReg hk' code
  · rw [← hreg] at hr
    exact (setKey_press_regsKeptBut hk' code r hr).trans (waited .regs (by decide) r)

end Sys2Proof.Machine
end

section
/-! PROOF. The index register and memory (46_index_memory.md): the addresses as numbers, what the stores and the block load do byte by byte and register by register, and the statements from these rules. -/

namespace Sys2Proof.Machine

/-! Addresses as numbers. -/

theorem byte_and_0F_toNat (b : Byte) : (b &&& 0x0F).toNat = b.toNat % 16 := by
  rw [BitVec.toNat_and]
  exact Nat.and_two_pow_sub_one_eq_mod b.toNat 4

/-- Five times a nibble is below 65536, so the product does not wrap. -/
theorem glyphAddress_toNat (b : Byte) : (glyphAddress b).toNat = 5 * (b.toNat % 16) := by
  have hfits : 5 * (b.toNat % 16) < 2 ^ 16 := by omega
  rw [glyphAddress, BitVec.toNat_mul, byteWord_toNat, byte_and_0F_toNat]
  exact Nat.mod_eq_of_lt hfits

theorem State.blockI_toNat (s : State) (x : Nibble) :
    (s.blockI x).toNat =
      if s.q.getLsbD 3 = true then (s.i.toNat + x.toNat + 1) % 65536 else s.i.toNat := by
  have hx := x.lt_sixteen
  unfold State.blockI State.loadStoreIAdd
  split
  · rw [BitVec.toNat_add, BitVec.toNat_ofNat, Nat.mod_eq_of_lt (a := x.toNat + 1) (by omega),
      Nat.add_assoc]
  · rfl

/-! The stores (R193, R194). -/

theorem State.bytesKeptBut_storeBytes {s : State} (hm : Memory.wf s.mem = true) (a : Nat)
    (bs : List Byte) : BytesKeptBut a bs.length s (s.storeBytes a bs) :=
  Memory.read_writeBytes_other a bs hm

theorem State.memByte_storeBytes_bcdDigits_toNat {s : State} (hm : Memory.wf s.mem = true) (a : Nat)
    {b : Byte} (k : Nat) {d : Nat} (hk : (bcdDigits b)[k]? = some (BitVec.ofNat 8 d)) (hd : d < 256) :
    ((s.storeBytes a (bcdDigits b)).memByte (a + k)).toNat = d := by
  obtain ⟨hlt, hdigit⟩ := List.getElem?_eq_some_iff.mp hk
  have hlen : (bcdDigits b).length ≤ 4096 := Nat.le_of_ble_eq_true rfl
  rw [State.storeBytes_memByte, Memory.read_writeBytes_get a _ hm hlen (a + k) k hlt rfl, hdigit,
    BitVec.toNat_ofNat, Nat.mod_eq_of_lt hd]

/-- `V[r]` lies `r` bytes past the address of a block store that includes it. -/
theorem State.memByte_storeBytes_reg {s : State} (hm : Memory.wf s.mem = true) (a : Nat)
    {x r : Nibble} (hr : r.toNat ≤ x.toNat) :
    (s.storeBytes a (s.regsUpTo x)).memByte (a + r.toNat) = s.reg r := by
  rw [State.memByte_storeBytes_regsUpTo hm a hr, BitVec.ofNat_toNat, BitVec.setWidth_eq]

/-! The block load (R195). -/

theorem State.reg_loadRegs_of_le (s : State) {x r : Nibble} (hr : r.toNat ≤ x.toNat) :
    (s.loadRegs (x.toNat + 1)).reg r = s.memByte (s.i.toNat + r.toNat) := by
  rw [State.reg_loadRegs s _ x.lt_sixteen, if_pos (Nat.lt_succ_of_le hr)]

theorem State.reg_loadRegs_of_gt (s : State) {x r : Nibble} (hr : x.toNat < r.toNat) :
    (s.loadRegs (x.toNat + 1)).reg r = s.reg r := by
  rw [State.reg_loadRegs s _ x.lt_sixteen, if_neg (Nat.not_lt_of_le hr)]

/-! The statements. -/

/-- Settles O59: the load reads `r` bytes past `I` what the store put there, `V[r]`; the registers and
`I` in between do not matter, since neither is memory. -/
theorem blockLoadUndoesBlockStore : Obligations.BlockLoadUndoesBlockStore := fun _ _ _ hm =>
  ⟨_, _, rfl, rfl, fun _ hr =>
    (State.reg_loadRegs_of_le _ hr).trans (State.memByte_storeBytes_reg hm _ hr)⟩

/-- Settles O54: the immediate fits 16 bits, and the sum is `BitVec`'s, which wraps. -/
theorem indexLoadAndAddKeepSixteenBits : Obligations.IndexLoadAndAddKeepSixteenBits := fun nnn x s =>
  ⟨⟨decode_encode (.ldI nnn), _, rfl, addrWord_toNat nnn, s.setI_frame _⟩,
    ⟨decode_encode (.addIVx x), _, rfl,
      by rw [State.setI_i, BitVec.toNat_add, byteWord_toNat], s.setI_frame _⟩⟩

/-- Settles O55: one register write, of the masked value, and one write of `I`. -/
theorem glyphAddressMasksSource : Obligations.GlyphAddressMasksSource := fun x s =>
  ⟨decode_encode (.ldFVx x), _, rfl, glyphAddress_toNat _,
    by rw [State.setI_reg, State.reg_setReg_self, byte_and_0F_toNat],
    s.regsKeptBut_setReg x _, frame_of_exec (i := .ldFVx x) rfl⟩

/-- Settles O56: the bytes stored are the three digits, each below 256. -/
theorem bcdStoresThreeDigits : Obligations.BcdStoresThreeDigits := by
  intro x s hm
  have hb := (s.reg x).isLt
  have digit := State.memByte_storeBytes_bcdDigits_toNat hm s.i.toNat (b := s.reg x)
  exact ⟨decode_encode (.ldBVx x), _, rfl, digit 0 rfl (by omega), digit 1 rfl (by omega),
    digit 2 rfl (by omega), State.bytesKeptBut_storeBytes hm _ (bcdDigits (s.reg x)),
    s.storeBytes_frame _ _⟩

/-- Settles O57: `I` is no part of memory, so the bytes after the instruction are those after the
store. -/
theorem blockStoreWritesRegisters : Obligations.BlockStoreWritesRegisters := fun x s hm =>
  ⟨decode_encode (.ldMemVx x), _, rfl, fun _ hr => State.memByte_storeBytes_reg hm _ hr,
    s.regsUpTo_length x ▸ State.bytesKeptBut_storeBytes hm _ _, s.blockI_toNat x,
    frame_of_exec (i := .ldMemVx x) rfl⟩

/-- Settles O58: every register from 0 to `x` is loaded, the others are not; the frame keeps memory. -/
theorem blockLoadReadsRegisters : Obligations.BlockLoadReadsRegisters := fun x s =>
  ⟨decode_encode (.ldVxMem x), _, rfl, fun _ hr => s.reg_loadRegs_of_le hr,
    fun _ hr => s.reg_loadRegs_of_gt hr, s.blockI_toNat x, frame_of_exec (i := .ldVxMem x) rfl⟩

end Sys2Proof.Machine
end

section
/-! PROOF. The host operations (48_host_operations.md): the frame tick and any number of them, the key event in both its cases, the change of quirks and the read accessors. -/

namespace Sys2Proof.Machine

/-! The frame tick (R200). -/

/-- Natural subtraction stops at 0 as the timers do. -/
theorem countDown_toNat (b : Byte) : (countDown b).toNat = b.toNat - 1 := by
  unfold countDown
  split
  · next h => rw [h]; rfl
  · next h => bv_omega

theorem countDown_toNat_sub (b : Byte) (k : Nat) : (countDown b).toNat - k = b.toNat - (k + 1) := by
  rw [countDown_toNat, Nat.sub_sub, Nat.add_comm]

@[simp] theorem stepFrame_frameWait (s : State) : (stepFrame s).frameWait = false := rfl

theorem stepFrame_frame (s : State) : Frame [.delayTimer, .soundTimer, .frameLatch] s (stepFrame s) :=
  have timers : Frame [.delayTimer, .soundTimer] s ((s.setDt (countDown s.dt)).setSt (countDown s.st)) :=
    (s.setDt_frame _).trans_mono (State.setSt_frame _ _)
  timers.trans_mono (State.setFrameWait_frame _ _)

theorem ticks_dt (k : Nat) (s : State) : (ticks k s).dt.toNat = s.dt.toNat - k := by
  induction k generalizing s with
  | zero => rfl
  | succ k ih => exact (ih (stepFrame s)).trans (countDown_toNat_sub s.dt k)

theorem ticks_st (k : Nat) (s : State) : (ticks k s).st.toNat = s.st.toNat - k := by
  induction k generalizing s with
  | zero => rfl
  | succ k ih => exact (ih (stepFrame s)).trans (countDown_toNat_sub s.st k)

/-- No tick sets the latch. -/
theorem ticks_frameWait_of_clear (k : Nat) {s : State} (h : s.frameWait = false) :
    (ticks k s).frameWait = false := by
  induction k generalizing s with
  | zero => exact h
  | succ k ih => exact ih (stepFrame_frameWait s)

theorem ticks_frame (k : Nat) (s : State) :
    Frame [.delayTimer, .soundTimer, .frameLatch] s (ticks k s) := by
  induction k generalizing s with
  | zero => exact Frame.refl _ s
  | succ k ih => exact (stepFrame_frame s).trans (ih (stepFrame s))

/-- Settles O26: the first tick clears the latch, and no later one sets it. -/
theorem timersSaturateAfterTicks : Obligations.TimersSaturateAfterTicks := by
  refine fun k s => ⟨ticks_dt k s, ticks_st k s, fun hk => ?_, ticks_frame k s⟩
  cases k with
  | zero => exact absurd rfl hk
  | succ k => exact ticks_frameWait_of_clear k (stepFrame_frameWait s)

/-- Settles O25: no execution state is looked at, so one tick does the same in each. -/
theorem stepFrameTicksTimers : Obligations.StepFrameTicksTimers := fun s _ hl hin =>
  ⟨_, step_stepFrame (s.nextOp_cons _ _ hin) hl, countDown_toNat s.dt, countDown_toNat s.st, rfl,
    congrArg List.tail hin, s.takeOp_frame.trans_mono (stepFrame_frame _)⟩

/-! The key event (R201, R202): what a press that ends a wait and any other event have in common. -/

@[simp] theorem setKey_keys (code : Nibble) (pressed : Bool) (s : State) :
    (setKey code pressed s).keys = s.keys.set code.toNat pressed code.isLt := by
  unfold setKey
  split <;> rfl

@[simp] theorem setKey_keyReg (code : Nibble) (pressed : Bool) (s : State) :
    (setKey code pressed s).keyReg = s.keyReg := by
  unfold setKey
  split <;> rfl

@[simp] theorem setKey_inputs (code : Nibble) (pressed : Bool) (s : State) :
    (setKey code pressed s).inputs = s.inputs := by
  unfold setKey
  split <;> rfl

/-- Whichever event it was, the key reads as recorded and every other key, absent ones too, as before. -/
theorem setKey_pressed (code : Nibble) (pressed : Bool) (s : State) (k : Byte) :
    (setKey code pressed s).pressed k = if k.toNat = code.toNat then pressed else s.pressed k := by
  have hcode := code.isLt
  by_cases hk : k.toNat < 16
  · simp [State.pressed, hk, Vector.getElem_set, eq_comm]
  · have hne : k.toNat ≠ code.toNat := by omega
    simp [State.pressed, hk, hne]

/-- Settles O27: the event is a press that ends the wait, or only sets the key. -/
theorem setKeyUpdatesKeyAndEndsWait : Obligations.SetKeyUpdatesKeyAndEndsWait := by
  intro s code pressed rest hl hin
  refine ⟨_, step_setKey (s.nextOp_cons _ _ hin) hl, ?_, setKey_pressed code pressed s.takeOp, ?_, ?_⟩
  · rw [setKey_inputs]
    exact congrArg List.tail hin
  · rintro ⟨rfl, hk⟩
    have hk' : s.takeOp.keyWait = true := hk
    exact ⟨setKey_press_keyWait hk' code, setKey_keyReg code true _, setKey_reg_keyReg hk' code,
      setKey_press_regsKeptBut hk' code, s.takeOp_frame.trans_mono (setKey_press_frame hk' code)⟩
  · intro h
    have hno : pressed = false ∨ s.takeOp.keyWait = false := by
      rwa [not_and_or, Bool.not_eq_true, Bool.not_eq_true] at h
    rw [setKey_no_wait hno]
    exact s.takeOp_frame.trans_mono (State.setKeyBit_frame _ code pressed)

/-! The change of quirks and the read accessors (R204, R205). -/

/-- Settles O28: the operation leaves the list, and `Q` is written. -/
theorem setQuirksReplacesQuirks : Obligations.SetQuirksReplacesQuirks := by
  intro s quirks rest hl hin
  rw [step_setQuirks (s.nextOp_cons _ _ hin) hl, setQuirks, State.takeOp, hin, List.tail_cons]

theorem State.display_length (s : State) : s.display.length = s.width := by
  simp [State.display]

theorem State.display_getElem (s : State) {px : Nat} (h : px < s.display.length) :
    s.display[px] = (List.range s.height).map fun py => s.pixel px py := by
  simp [State.display]

/-- Settles O29: the columns run over the active width, and each over the active height. -/
theorem displayAccessorShowsActivePixels : Obligations.DisplayAccessorShowsActivePixels := by
  refine fun s => ⟨rfl, s.display_length, fun px hx => ?_, fun px hx py hy => ?_⟩
  · rw [s.display_getElem hx, List.length_map, List.length_range]
    rfl
  · simp [s.display_getElem hx]

end Sys2Proof.Machine
end

section
/-! PROOF. Encoding and decoding (30_encoding.md R70, R75): the two bytes of an instruction decode as its word does. -/

namespace Sys2Proof

/-- Joined again, the two bytes of an instruction are its word; the bytes after them are handed back. -/
theorem decodeBytes_encodeBytes (i : Instr) (rest : List Byte) :
    decodeBytes (encodeBytes i ++ rest) = .ok (i, rest) := by
  rw [encodeBytes, List.cons_append, List.cons_append, List.nil_append, decodeBytes, word_bytes,
    decode_encode]
  rfl

/-- Settles O1: the decoder takes back what the encoder put in, by word and by bytes. -/
theorem decodeOfEncodeGivesInstructionBack : Obligations.DecodeOfEncodeGivesInstructionBack :=
  fun i => ⟨decode_encode i, decodeBytes_encodeBytes i⟩

/-- Settles O6: twelve fixed words. -/
theorem sampleWordsDecodeAsListed : Obligations.SampleWordsDecodeAsListed := by
  unfold Obligations.SampleWordsDecodeAsListed
  decide

end Sys2Proof
end

section
/-! PROOF. The registers an instruction may write (10_state.md R20, R23). -/

namespace Sys2Proof.Machine

/-- Zeroing the flag or not, a logic instruction writes no register but its destination and `VF`. -/
theorem State.regsKeptBut_writeLogic (s : State) (x : Nibble) (result : Byte) :
    RegsKeptBut [x, vf] s (s.writeLogic x result) := by
  obtain ⟨hset, hclear⟩ := s.writeLogic_logicWrite x result
  cases hq : s.q.getLsbD 1 with
  | true =>
    obtain ⟨-, kept⟩ := hset hq
    exact fun r hr => kept r fun hx => hr (List.mem_append_left [vf] hx)
  | false =>
    obtain ⟨-, -, kept⟩ := hclear hq
    exact kept

/-- The block load writes `V[0]` to `V[x]`. -/
theorem State.regsKeptBut_loadRegs (s : State) (x : Nibble) :
    RegsKeptBut (destRegsOf (.ldVxMem x)) s (s.loadRegs (x.toNat + 1)) := by
  intro r hr
  refine s.reg_loadRegs_of_gt (Nat.lt_of_not_le fun hle => hr (List.mem_map.mpr ⟨r.toNat, ?_, ?_⟩))
  · exact List.mem_range.mpr (Nat.lt_succ_of_le hle)
  · rw [BitVec.ofNat_toNat, BitVec.setWidth_eq]

/-- An instruction that may not write the register part keeps every register; each of the others is one
of the register writes above. -/
theorem exec_regsKeptBut {i : Instr} {s t : State} (h : exec i s = .next t) :
    RegsKeptBut (destRegsOf i) s t := by
  have kept : .regs ∉ writesOf i → RegsKeptBut (destRegsOf i) s t :=
    fun hi r _ => frame_of_exec h .regs hi r
  cases i with
  | ldVxDt x | ldVxVy x _ | ldVxKk x _ | addVxKk x _ | ldFVx x | rnd x _ =>
    obtain rfl := Host.Outcome.next.inj h
    exact s.regsKeptBut_setReg x _
  | orVxVy x _ | andVxVy x _ | xorVxVy x _ =>
    obtain rfl := Host.Outcome.next.inj h
    exact s.regsKeptBut_writeLogic x _
  | addVxVy x _ | subVxVy x _ | subnVxVy x _ | shrVxVy x _ | shlVxVy x _ =>
    obtain rfl := Host.Outcome.next.inj h
    obtain ⟨-, -, others⟩ := s.writeFlagged_flaggedWrite _ x _ _
    exact others
  | drw _ _ _ =>
    obtain rfl := Host.Outcome.next.inj h
    exact s.regsKeptBut_setReg vf _
  | ldVxMem x =>
    obtain rfl := Host.Outcome.next.inj h
    exact s.regsKeptBut_loadRegs x
  | cls | scr | scl | scd _ | low | high | ret | call _ | jp _ | jpV0 _ | skp _ | sknp _ | seVxVy _ _
  | sneVxVy _ _ | seVxKk _ _ | sneVxKk _ _ | ldVxK _ | ldDtVx _ | ldStVx _ | ldI _ | addIVx _ | ldBVx _
  | ldMemVx _ => exact kept (by simp [writesOf])

/-- Settles O15. -/
theorem instructionsWriteOnlyTheirRegisters : Obligations.InstructionsWriteOnlyTheirRegisters := by
  intro i s
  obtain ⟨t, ht, -⟩ := exec_frame i s
  exact ⟨t, ht, exec_regsKeptBut ht⟩

end Sys2Proof.Machine
end

section
/-! PROOF. The reported failures (60_exceptions.md R220 to R225): what a failing step leaves, which steps fail, and that none stops the core. -/

namespace Sys2Proof.Machine

/-! Each failure only advances `PC` (R221 to R223). -/

/-- Settles O9: the decode failure is reported past the word, on the state with the operation taken off the
host's list. -/
theorem undecodableWordReportsDecodeFailure : Obligations.UndecodableWordReportsDecodeFailure := by
  intro s e hop hl hk hf hd
  rw [step_stepInstruction hop hl]
  exact stepInstruction_error (State.suspended_false_iff.mpr ⟨hk, hf⟩) hd

/-- A running core that fetches the word of an instruction executes it past the word. -/
theorem step_of_fetchWord {s : State} {i : Instr} (hop : s.nextOp = .stepInstruction)
    (hl : s.loadResult = .loadOk) (hk : s.keyWait = false) (hf : s.frameWait = false)
    (hw : s.fetchWord = encode i) :
    step s = exec i ((s.takeOp.setPc (s.pc + 2)).setResult .ok) := by
  have hd : decode s.takeOp.fetchWord = .ok i := (congrArg decode hw).trans (decode_encode i)
  rw [step_stepInstruction hop hl]
  exact stepInstruction_ok (State.suspended_false_iff.mpr ⟨hk, hf⟩) hd

/-- Settles O10: a `CALL` with no entry free and a `RET` with none in use only raise. -/
theorem stackFailuresOnlyAdvancePc : Obligations.StackFailuresOnlyAdvancePc := by
  intro s hop hl hk hf
  refine ⟨fun nnn hw hsp => ?overflow, fun hw hsp => ?underflow⟩
  case overflow =>
    rw [step_of_fetchWord (i := .call nnn) hop hl hk hf hw]
    exact exec_call_of_full (s := (s.takeOp.setPc (s.pc + 2)).setResult .ok) hsp nnn
  case underflow =>
    rw [step_of_fetchWord (i := .ret) hop hl hk hf hw]
    exact exec_ret_of_empty (s := (s.takeOp.setPc (s.pc + 2)).setResult .ok) hsp

/-! The table of R220. -/

theorem exec_call_result {nnn : Addr} {s t : State} (h : exec (.call nnn) s = .next t) :
    t.result = if s.sp.val = 16 then .stackOverflow else s.result := by
  by_cases hsp : s.sp.val = 16
  · obtain rfl := Host.Outcome.next.inj ((exec_call_of_full hsp nnn).symm.trans h)
    exact (if_pos hsp).symm
  · have hfree : s.sp.val < 16 := by omega
    obtain rfl := Host.Outcome.next.inj ((exec_call_of_lt hfree nnn).symm.trans h)
    exact (if_neg hsp).symm

theorem exec_ret_result {s t : State} (h : exec .ret s = .next t) :
    t.result = if s.sp.val = 0 then .stackUnderflow else s.result := by
  by_cases hsp : s.sp.val = 0
  · obtain rfl := Host.Outcome.next.inj ((exec_ret_of_empty hsp).symm.trans h)
    exact (if_pos hsp).symm
  · obtain rfl := Host.Outcome.next.inj ((exec_ret_of_pos (Nat.pos_of_ne_zero hsp)).symm.trans h)
    exact (if_neg hsp).symm

/-- Settles O11: a suspended step returns OK, an undecodable word its failure; of the instructions only
`CALL` and `RET` may write the result. -/
theorem stepResultIsFailureExactlyWhenListed : Obligations.StepResultIsFailureExactlyWhenListed := by
  refine ⟨⟨rfl, rfl, rfl, rfl⟩, fun s hop hl => ?_⟩
  rw [step_stepInstruction hop hl]
  by_cases hsusp : s.keyWait = true ∨ s.frameWait = true
  · refine ⟨_, stepInstruction_suspended (s := s.takeOp) (State.suspended_iff.mpr hsusp), ?_⟩
    exact (if_pos hsusp).symm
  have hrun : s.takeOp.suspended = false :=
    Bool.eq_false_iff.mpr fun h => hsusp (State.suspended_iff.mp h)
  cases hd : decode s.fetchWord with
  | error e => exact ⟨_, stepInstruction_error (s := s.takeOp) hrun hd, (if_neg hsusp).symm⟩
  | ok i =>
    obtain ⟨t, ht, frame⟩ := exec_frame i ((s.takeOp.setPc (s.pc + 2)).setResult .ok)
    refine ⟨t, (stepInstruction_ok (s := s.takeOp) hrun hd).trans ht, ?_⟩
    rw [if_neg hsusp]
    cases i with
    | call nnn => exact exec_call_result ht
    | ret => exact exec_ret_result ht
    | _ => exact frame .result (by simp [writesOf])

/-! The one refusal (R225; 70_reset_and_hazards.md R241). -/

theorem step_answers_of_loadOk {s : State} (hl : s.loadResult = .loadOk) : ∃ t, step s = .next t := by
  cases hop : s.nextOp with
  | load p q => exact ⟨_, step_load hop⟩
  | stepInstruction =>
    obtain ⟨t, ht, -⟩ := stepInstruction_execState s.takeOp
    exact ⟨t, (step_stepInstruction hop hl).trans ht⟩
  | stepFrame => exact ⟨_, step_stepFrame hop hl⟩
  | setKey code pressed => exact ⟨_, step_setKey hop hl⟩
  | setQuirks q => exact ⟨_, step_setQuirks hop hl⟩

theorem step_refused {s : State} (hl : s.loadResult = .loadFail) (hop : ∀ p q, s.nextOp ≠ .load p q) :
    step s = .refused .afterRejectedLoad := by
  unfold step
  cases h : s.nextOp with
  | load p q => exact absurd h (hop p q)
  | stepInstruction | stepFrame | setKey _ _ | setQuirks _ => exact State.ifLoaded_fail hl _

/-- Settles O12. -/
theorem onlyRejectedLoadStopsAStep : Obligations.OnlyRejectedLoadStopsAStep := by
  refine fun s => ⟨?answers, fun ⟨hl, hop⟩ => step_refused hl hop⟩
  rintro (hl | ⟨p, q, hop⟩)
  · exact step_answers_of_loadOk hl
  · exact ⟨_, step_load hop⟩

end Sys2Proof.Machine
end

section
/-! PROOF. The frame wait (70_reset_and_hazards.md R245) over any number of suspended steps up to the tick that ends it. -/

namespace Sys2Proof.Machine

/-- Settles O31: the suspended steps keep the timers, so the tick counts down those that stood before
them. -/
theorem frameWaitLastsUntilTick : Obligations.FrameWaitLastsUntilTick := by
  intro n s rest hl hf hin
  obtain ⟨t, ht, htin, waited⟩ := steps_suspended n hl (State.suspended_iff.mpr (.inr hf)) hin
  obtain ⟨hload, -⟩ := waited .loadStatus (by decide)
  have hdt : t.dt = s.dt := waited .delayTimer (by decide)
  have hst : t.st = s.st := waited .soundTimer (by decide)
  have htick := step_stepFrame (t.nextOp_cons _ _ htin) (hload.trans hl)
  have frame : Frame [.delayTimer, .soundTimer, .frameLatch, .result, .inputs] s (stepFrame t.takeOp) :=
    (waited.trans_mono t.takeOp_frame (c := [.result, .inputs])).trans_mono (stepFrame_frame _)
  refine ⟨t, _, ht, waited, steps_succ_last ht htick, stepFrame_frameWait _, frame .pc (by decide),
    ?_, ?_, frame⟩
  · rw [← hdt]
    exact countDown_toNat t.dt
  · rw [← hst]
    exact countDown_toNat t.st

end Sys2Proof.Machine
end

section
/-! PROOF. The `load` operation (70_reset_and_hazards.md R240 to R243): the memory image byte by byte, and a rejected `load` with what can follow it. -/

namespace Sys2Proof.Machine

/-! The memory image (R240, R242). -/

/-- The program of an allowed length is found from 0x200 on. -/
theorem Memory.read_image_program {font program : List Byte} (hlen : program.length ≤ 3584) {j : Nat}
    (hj : j < program.length) : Memory.read (Memory.image font program) (0x200 + j) = program[j] :=
  Memory.read_writeBytes_get 0x200 program (Memory.wf_writeBytes 0 font Memory.wf_nil) (by omega) _ j hj rfl

/-- Outside the program the image is the font written over an empty memory. -/
theorem Memory.read_image_of_not_program {font program : List Byte} (hlen : program.length ≤ 3584)
    {a : Nat} (ha : a < 4096) (hout : a < 0x200 ∨ 0x200 + program.length ≤ a) :
    Memory.read (Memory.image font program) a = Memory.read (Memory.writeBytes [] 0 font) a :=
  Memory.read_writeBytes_other 0x200 program (Memory.wf_writeBytes 0 font Memory.wf_nil) a
    (fun k hk => by omega)

theorem Memory.read_image_font {font program : List Byte} (hfont : font.length = 80)
    (hlen : program.length ≤ 3584) {a : Nat} (ha : a < font.length) :
    Memory.read (Memory.image font program) a = font[a] := by
  rw [Memory.read_image_of_not_program hlen (by omega) (by omega)]
  exact Memory.read_writeBytes_get 0 font Memory.wf_nil (by omega) a a ha (by rw [Nat.zero_add])

/-- Outside the font and the program the image is 0, as the empty memory of the reset state is. -/
theorem Memory.read_image_zero {font program : List Byte} (hfont : font.length = 80)
    (hlen : program.length ≤ 3584) {a : Nat} (ha : 80 ≤ a) (ha' : a < 4096)
    (hout : a < 0x200 ∨ 0x200 + program.length ≤ a) :
    Memory.read (Memory.image font program) a = 0 := by
  rw [Memory.read_image_of_not_program hlen ha' hout,
    Memory.read_writeBytes_other 0 font Memory.wf_nil a (fun k hk => by omega)]
  exact State.memByte_reset_zero ha ha'

/-- Settles O23: the memory is the image, and the other elements but `Q` are those after reset. -/
theorem loadResetsEveryElement : Obligations.LoadResetsEveryElement := by
  intro s program quirks rest hin hlen
  have hfont : s.params.font.toList.length = 80 := Vector.length_toList
  obtain ⟨hreg, -, -, -, hstack, -⟩ := resetHoldsLoadValues
  refine ⟨loaded program quirks s.takeOp, ?step, rfl, hreg, rfl, rfl, rfl, hstack, rfl, rfl,
    State.pressed_reset, rfl, rfl, rfl, rfl, FrameBuffer.pixel_clear, rfl, fun a ha => ?font,
    fun a ha ha' => Memory.read_image_zero hfont hlen ha (by omega) (.inl ha'),
    fun j hj => Memory.read_image_program hlen hj,
    fun a ha ha' => Memory.read_image_zero hfont hlen (by omega) ha' (.inr ha),
    rfl, rfl, congrArg List.tail hin⟩
  case step => rw [step_load (s.nextOp_cons _ _ hin), loaded_of_le hlen]
  case font =>
    exact (Memory.read_image_font hfont hlen (by omega)).trans (Vector.getElem_toList _)

/-! A rejected `load` (R241). -/

/-- A `load` reads nothing that a rejected `load` before it made unspecified. -/
theorem loaded_loadRejected (program : List Byte) (q : Quirks) (s : State) :
    loaded program q (loadRejected s).takeOp =
      { loaded program q s.takeOp with loadFailures := s.loadFailures + 1 } := rfl

/-- Settles O24. -/
theorem rejectedLoadLeavesOnlyLoad : Obligations.RejectedLoadLeavesOnlyLoad := by
  intro s program quirks op rest hin hlong
  have htin : (loadRejected s.takeOp).inputs = op :: rest := congrArg List.tail hin
  have htop : (loadRejected s.takeOp).nextOp = op := State.nextOp_cons _ _ _ htin
  refine ⟨loadRejected s.takeOp, ?rejected, rfl, htin, fun hop => ?refused, fun p q hop hlen => ?loads⟩
  case rejected => rw [step_load (s.nextOp_cons _ _ hin), loadRejected_of_lt hlong]
  case refused => exact step_refused rfl fun p q h => hop p q (htop.symm.trans h)
  case loads =>
    have hs : ({ s with inputs := op :: rest } : State) = s.takeOp := by
      rw [State.takeOp, hin, List.tail_cons]
    have hsop : s.takeOp.nextOp = .load p q := (State.nextOp_cons _ _ _ htin).trans hop
    rw [hs, step_load (htop.trans hop), step_load hsop, loaded_of_le hlen, loaded_of_le hlen]
    exact ⟨_, _, rfl, rfl, rfl, loaded_loadRejected p q s.takeOp⟩

end Sys2Proof.Machine
end

section
/-! PROOF. The end of a run (70_reset_and_hazards.md R251): a jump to itself is reached again by every operation but a `load`. -/

namespace Sys2Proof.Machine

/-- The word of a jump to `PC`, as a number. -/
theorem jump_toNat (pc : Word) (h : pc.toNat < 4096) :
    (0x1#4 ++ pc.setWidth 12).toNat = 0x1000 + pc.toNat := by
  rw [BitVec.toNat_append, BitVec.toNat_setWidth, Nat.mod_eq_of_lt h, ← Nat.shiftLeft_add_eq_or_of_lt h]
  rfl

/-- The run is over at a jump to itself, in a running core after a successful `load`. -/
theorem State.runOver_iff {s : State} :
    s.runOver = true ↔ s.loadResult = .loadOk ∧ s.execState = .running ∧ s.pc.toNat < 4096 ∧
      s.fetchWord = 0x1#4 ++ s.pc.setWidth 12 := by
  simp [State.runOver, and_assoc]

/-- A jump to an address below 4096 goes there: the 12 bits of the operand hold it. -/
theorem addrWord_setWidth {pc : Word} (h : pc.toNat < 4096) : addrWord (pc.setWidth 12) = pc := by
  apply BitVec.eq_of_toNat_eq
  rw [addrWord_toNat, BitVec.toNat_setWidth, Nat.mod_eq_of_lt h]

/-- What the host's operations other than `load` change where the run is over. -/
abbrev partsWhenOver : List Part := [.delayTimer, .soundTimer, .keys, .quirks, .result, .inputs]

/-- Whether the run is over depends on the latest `load`, the latches, `PC` and memory only. -/
theorem Frame.runOver_eq {s t : State} (frame : Frame partsWhenOver s t) : t.runOver = s.runOver := by
  obtain ⟨hload, -⟩ := frame .loadStatus (by decide)
  have hexec := frame.execState_eq (by decide) (by decide)
  have hpc : t.pc = s.pc := frame .pc (by decide)
  have hmem : ∀ a, t.memByte a = s.memByte a := frame .memory (by decide)
  have hword : t.fetchWord = s.fetchWord := by
    rw [State.fetchWord_eq_memByte, State.fetchWord_eq_memByte, hpc, hmem, hmem]
  rw [State.runOver, State.runOver, hload, hexec, hpc, hword]

/-! One operation where the run is over. -/

/-- A step jumps back to where it started. -/
theorem step_stepInstruction_of_runOver {s : State} (h : s.runOver = true)
    (hop : s.nextOp = .stepInstruction) : step s = .next (s.takeOp.setResult .ok) := by
  obtain ⟨hl, hrun, hpc, hw⟩ := State.runOver_iff.mp h
  obtain ⟨hk, hf⟩ := State.execState_running_iff.mp hrun
  rw [step_of_fetchWord (i := .jp (s.pc.setWidth 12)) hop hl hk hf hw, exec, execJp, addrWord_setWidth hpc]
  rfl

/-- A tick in a running core only counts the timers down. -/
theorem stepFrame_frame_of_running {s : State} (hrun : s.execState = .running) :
    Frame [.delayTimer, .soundTimer] s (stepFrame s) := by
  obtain ⟨-, hf⟩ := State.execState_running_iff.mp hrun
  intro p hp
  by_cases hlatch : p = .frameLatch
  · subst hlatch
    exact (stepFrame_frameWait s).trans hf.symm
  · exact stepFrame_frame s p (by simp_all)

theorem setQuirks_frame (q : Quirks) (s : State) : Frame [.quirks] s (setQuirks q s) := by
  intro p hp
  cases p with
  | quirks => exact absurd (List.mem_singleton_self _) hp
  | regs | memory => exact fun _ => rfl
  | pixels => exact fun _ _ => rfl
  | keyLatch | loadStatus => exact ⟨rfl, rfl⟩
  | _ => rfl

/-- One step where the run is over, for each operation but a `load`. -/
theorem step_of_runOver {s : State} (h : s.runOver = true) (hop : ∀ p q, s.nextOp ≠ .load p q) :
    ∃ t, step s = .next t ∧ t.inputs = s.inputs.tail ∧ Frame partsWhenOver s t ∧
      (s.nextOp = .stepInstruction → Frame [.result, .inputs] s t) := by
  obtain ⟨hl, hrun, -, -⟩ := State.runOver_iff.mp h
  cases hnext : s.nextOp with
  | load p q => exact absurd hnext (hop p q)
  | stepInstruction =>
    have stepped : Frame [.result, .inputs] s (s.takeOp.setResult .ok) :=
      s.takeOp_frame.trans_mono (State.setResult_frame _ _)
    exact ⟨_, step_stepInstruction_of_runOver h hnext, rfl, stepped.mono (by decide), fun _ => stepped⟩
  | stepFrame =>
    exact ⟨_, step_stepFrame hnext hl, rfl,
      s.takeOp_frame.trans_mono (stepFrame_frame_of_running (s := s.takeOp) hrun), nofun⟩
  | setKey code pressed =>
    obtain ⟨hk, -⟩ := State.execState_running_iff.mp hrun
    refine ⟨_, step_setKey hnext hl, setKey_inputs code pressed _, ?_, nofun⟩
    rw [setKey_no_wait (s := s.takeOp) (.inr hk)]
    exact s.takeOp_frame.trans_mono (State.setKeyBit_frame _ code pressed)
  | setQuirks q =>
    exact ⟨_, step_setQuirks hnext hl, rfl, s.takeOp_frame.trans_mono (setQuirks_frame q _), nofun⟩

/-- What holds of the next `n + 1` operations holds of the next one, a `stepInstruction` where the list is
empty, and of the `n` after it. -/
theorem State.nextOp_and_tail_of_take_succ {P : HostOp → Prop} (hP : P .stepInstruction) {s : State}
    {n : Nat} (h : ∀ op ∈ s.inputs.take (n + 1), P op) :
    P s.nextOp ∧ ∀ op ∈ s.inputs.tail.take n, P op := by
  rw [State.nextOp]
  cases hin : s.inputs with
  | nil => simpa using hP
  | cons op rest =>
    rw [hin, List.take_succ_cons] at h
    exact List.forall_mem_cons.mp h

/-- Where the run is over it stays over for any number of operations without a `load`. -/
theorem steps_of_runOver (n : Nat) {s : State} (h : s.runOver = true)
    (hops : ∀ op ∈ s.inputs.take n, ∀ p q, op ≠ .load p q) :
    ∃ t, steps n s = .next t ∧ Frame partsWhenOver s t ∧
      ((∀ op ∈ s.inputs.take n, op = .stepInstruction) → Frame [.result, .inputs] s t) := by
  induction n generalizing s with
  | zero => exact ⟨s, rfl, Frame.refl _ s, fun _ => Frame.refl _ s⟩
  | succ n ih =>
    obtain ⟨hop, hrest⟩ := State.nextOp_and_tail_of_take_succ nofun hops
    obtain ⟨t, ht, hin, first, firstOnly⟩ := step_of_runOver h hop
    rw [← hin] at hrest
    obtain ⟨u, hu, later, laterOnly⟩ := ih (first.runOver_eq.trans h) hrest
    refine ⟨u, (steps_succ_of_step ht n).trans hu, first.trans later, fun hsteps => ?_⟩
    obtain ⟨hstep, hstepsRest⟩ :=
      State.nextOp_and_tail_of_take_succ (P := (· = .stepInstruction)) rfl hsteps
    rw [← hin] at hstepsRest
    exact (firstOnly hstep).trans (laterOnly hstepsRest)

/-- Settles O60: the fetched word is the jump exactly when it is that number; and by induction on the
number of steps the run stays over. -/
theorem runOverLastsUntilLoad : Obligations.RunOverLastsUntilLoad := by
  refine ⟨fun s => ?predicate, fun n s h hops => ?lasts⟩
  case predicate =>
    rw [State.runOver_iff]
    refine and_congr_right fun _ => and_congr_right fun _ => and_congr_right fun hpc => ?_
    rw [← jump_toNat s.pc hpc, BitVec.toNat_inj]
  case lasts =>
    obtain ⟨t, ht, frame, only⟩ := steps_of_runOver n h hops
    exact ⟨t, ht, frame.runOver_eq.trans h, frame, only⟩

end Sys2Proof.Machine
end
